-- ==== Sys2Proof/Word.lean ====
section
/-! DEFINITION. The word types of the LPD433 OOK core (00_scope.md R10, R12). Every quantity of the
block is an unsigned bit field (R13), so a width is all a type has to say. -/

namespace Sys2Proof

/-- A 64-bit bus word, and a 64-bit microsecond timestamp (R10: DATA_W and TS_W are 64 bits). -/
abbrev Word := BitVec 64

/-- A duration in microseconds, 32 bits (R10: DUR_W). -/
abbrev Dur := BitVec 32

/-- A host word address, 8 bits (R10: ADDR_W). -/
abbrev Addr := BitVec 8

/-- The cycle input header `H` (R80), 13 bits. -/
abbrev Header := BitVec 13

end Sys2Proof
end

