-- ==== Sys2Proof/Syntax.lean ====
section
/-! DEFINITION. The operations of the block: one constructor for each of the 23 rows of
spec/opcode_table.json, in the table's order, and the inputs of one clock cycle (30_encoding.md R80). -/

namespace Sys2Proof

/-- The operations that inputs request, and the one internal operation. An operand that the row
carries is an argument: `ts` is T or U, `addr` is A (also where the row ignores it), `data` is D. -/
inductive Instr where
  /-- RESET (R240). -/
  | reset
  /-- EDGE.COCO T (R111). -/
  | edgeCoco (ts : Word)
  /-- EDGE.KFS U (R132). -/
  | edgeKfs (ts : Word)
  /-- NOP, OP = 00 (R197); A is carried and ignored. -/
  | nop (addr : Addr)
  /-- RESERVED, OP = 11 (R87, R197); A is carried and ignored. -/
  | reserved (addr : Addr)
  /-- RD A (R180). -/
  | rd (addr : Addr)
  /-- WR STATUS, D (R182). -/
  | wrStatus (data : Word)
  /-- WR IRQ_EN, D (R183). -/
  | wrIrqEn (data : Word)
  /-- WR COCO_NOMINAL, D (R184). -/
  | wrCocoNominal (data : Word)
  /-- WR COCO_TOL, D (R185). -/
  | wrCocoTol (data : Word)
  /-- WR COCO_REPEAT, D (R186). -/
  | wrCocoRepeat (data : Word)
  /-- WR COCO_REFRACT, D (R187). -/
  | wrCocoRefract (data : Word)
  /-- WR KFS_NOMINAL, D (R188). -/
  | wrKfsNominal (data : Word)
  /-- WR KFS_TOL, D (R189). -/
  | wrKfsTol (data : Word)
  /-- WR KFS_REPEAT, D (R190). -/
  | wrKfsRepeat (data : Word)
  /-- WR KFS_REFRACT, D (R191). -/
  | wrKfsRefract (data : Word)
  /-- WR TX_CTRL, D (R165). -/
  | wrTxCtrl (data : Word)
  /-- WR TX_COCO_UNIT, D (R192). -/
  | wrTxCocoUnit (data : Word)
  /-- WR TX_KFS_UNIT, D (R193). -/
  | wrTxKfsUnit (data : Word)
  /-- WR TX_COCO_MSG, D (R194). -/
  | wrTxCocoMsg (data : Word)
  /-- WR TX_KFS_MSG, D (R195). -/
  | wrTxKfsMsg (data : Word)
  /-- WR to a read-only or unmapped address (R196). -/
  | wrIgnored (addr : Addr) (data : Word)
  /-- TX.TICK (R166), internal: no header presents it. -/
  | txTick
  deriving DecidableEq, Repr

/-- The inputs of one clock cycle (R80): the header and the three operand ports. `t` is read only when
the header has C = 1, `u` only when K = 1, `d` only when OP = 01. -/
structure CycleIn where
  h : Header
  t : Word
  u : Word
  d : Word
  deriving DecidableEq, Repr

/-- A cycle with nothing requested (header 0: no reset, no edge, OP = 00). -/
def CycleIn.idle : CycleIn := { h := 0, t := 0, u := 0, d := 0 }

end Sys2Proof
end

