-- ==== Sys2Proof/WellFormed.lean ====
section
/-! DEFINITION. Which terms of `Instr` stand for an operation of the table (30_encoding.md R85), and
which of them a header can present. -/

namespace Sys2Proof

/-- The addresses that have a WR.<reg> row of their own (R85). A write to any other address is the
row WR.IGNORED. -/
def writableAddrs : List Addr :=
  [0x00, 0x01, 0x10, 0x11, 0x12, 0x13, 0x30, 0x31, 0x32, 0x33, 0x50, 0x51, 0x52, 0x53, 0x54]

/-- The one check: WR.IGNORED is "any other A" (R85, lowest priority), so it never carries an address
that has a row of its own. -/
def Instr.WellFormed : Instr → Bool
  | .wrIgnored a _ => !(writableAddrs.contains a)
  | .reset | .edgeCoco _ | .edgeKfs _ | .nop _ | .reserved _ | .rd _ | .wrStatus _ | .wrIrqEn _
  | .wrCocoNominal _ | .wrCocoTol _ | .wrCocoRepeat _ | .wrCocoRefract _
  | .wrKfsNominal _ | .wrKfsTol _ | .wrKfsRepeat _ | .wrKfsRefract _
  | .wrTxCtrl _ | .wrTxCocoUnit _ | .wrTxKfsUnit _ | .wrTxCocoMsg _ | .wrTxKfsMsg _
  | .txTick => true

/-- The four slots of a cycle, and the reset that replaces them all (R85, R86). -/
inductive Slot where
  | reset
  | coco
  | kfs
  | tx
  | bus
  deriving DecidableEq, Repr

/-- The slot an operation is selected in (the first column of R85's table). -/
def Instr.slot : Instr → Slot
  | .reset => .reset
  | .edgeCoco _ => .coco
  | .edgeKfs _ => .kfs
  | .txTick => .tx
  | .nop _ | .reserved _ | .rd _ | .wrStatus _ | .wrIrqEn _
  | .wrCocoNominal _ | .wrCocoTol _ | .wrCocoRepeat _ | .wrCocoRefract _
  | .wrKfsNominal _ | .wrKfsTol _ | .wrKfsRepeat _ | .wrKfsRefract _
  | .wrTxCtrl _ | .wrTxCocoUnit _ | .wrTxKfsUnit _ | .wrTxCocoMsg _ | .wrTxKfsMsg _
  | .wrIgnored _ _ => .bus

/-- Every operation but TX.TICK is requested by a header; TX.TICK is internal, "selected by
`S.seq.busy = 1`" (R166). -/
def Instr.hasEncoding (i : Instr) : Bool := i.slot != .tx

end Sys2Proof
end

