-- ==== Sys2Proof/Decode.lean ====
section
/-! DEFINITION. The decoder of a cycle's inputs (30_encoding.md R80 to R90) and, after it, the encoder.
No header value is illegal (R87), so every `CycleIn` decodes; what the decoder refuses, by name, is a
number that is no cycle input at all. -/

namespace Sys2Proof

/-! ## Header fields (R80) -/

/-- `rst`, H[12]. -/
def CycleIn.rst (c : CycleIn) : Bool := c.h.getLsbD 12

/-- `kfs_edge_valid`, H[11]. -/
def CycleIn.kfsValid (c : CycleIn) : Bool := c.h.getLsbD 11

/-- `coco_edge_valid`, H[10]. -/
def CycleIn.cocoValid (c : CycleIn) : Bool := c.h.getLsbD 10

/-- `bus_op`, H[9:8] (R81: 00 NOP, 01 WR, 10 RD, 11 reserved). -/
def CycleIn.op (c : CycleIn) : BitVec 2 := c.h.extractLsb' 8 2

/-- `bus_addr`, H[7:0]. -/
def CycleIn.addr (c : CycleIn) : Addr := c.h.extractLsb' 0 8

/-! ## The operation map (R85) -/

/-- The WR rows of R85: the row of address `a`, and WR.IGNORED for "any other A". -/
def decodeWrite (a : Addr) (d : Word) : Instr :=
  if a = 0x00 then .wrStatus d
  else if a = 0x01 then .wrIrqEn d
  else if a = 0x10 then .wrCocoNominal d
  else if a = 0x11 then .wrCocoTol d
  else if a = 0x12 then .wrCocoRepeat d
  else if a = 0x13 then .wrCocoRefract d
  else if a = 0x30 then .wrKfsNominal d
  else if a = 0x31 then .wrKfsTol d
  else if a = 0x32 then .wrKfsRepeat d
  else if a = 0x33 then .wrKfsRefract d
  else if a = 0x50 then .wrTxCtrl d
  else if a = 0x51 then .wrTxCocoUnit d
  else if a = 0x52 then .wrTxKfsUnit d
  else if a = 0x53 then .wrTxCocoMsg d
  else if a = 0x54 then .wrTxKfsMsg d
  else .wrIgnored a d

/-- The bus slot of a cycle (R81, R85). Every cycle has one. -/
def decodeBus (c : CycleIn) : Instr :=
  if c.op = 0 then .nop c.addr
  else if c.op = 1 then decodeWrite c.addr c.d
  else if c.op = 2 then .rd c.addr
  else .reserved c.addr

/-- The operations that a cycle's inputs request, in the order of R85's table. With R = 1 only RESET
executes and the other fields are ignored (R86). -/
def decodeHeader (c : CycleIn) : List Instr :=
  if c.rst then [.reset]
  else (if c.cocoValid then [.edgeCoco c.t] else [])
    ++ (if c.kfsValid then [.edgeKfs c.u] else [])
    ++ [decodeBus c]

/-- All the operations of a cycle: those of the header, and TX.TICK in every cycle with R = 0 and
`S.seq.busy = 1` (R85, the tx slot). -/
def decodeCycle (busy : Bool) (c : CycleIn) : List Instr :=
  if c.rst then [.reset]
  else (if c.cocoValid then [.edgeCoco c.t] else [])
    ++ (if c.kfsValid then [.edgeKfs c.u] else [])
    ++ (if busy then [.txTick] else [])
    ++ [decodeBus c]

/-! ## A cycle's inputs as one number (assumption log 8)

The spec gives the header and the operands no serial form. Bits 12..0 are H (16 bits are taken for it,
and bits 15..13 are 0), bits 79..16 are T, bits 143..80 are U and bits 207..144 are D. -/

/-- Why a number is no cycle input. -/
inductive DecodeError where
  /-- Bits 15..13 are not 0: the header has 13 bits (R80). -/
  | headerTooWide
  /-- A bit above 207 is set: a cycle has one header and three operands (R80, R90). -/
  | operandsTooLong
  deriving DecidableEq, Repr

/-- The cycle input that `w` lays out. -/
def CycleIn.ofNat (w : Nat) : CycleIn :=
  { h := BitVec.ofNat 13 w
    t := BitVec.ofNat 64 (w / 2 ^ 16)
    u := BitVec.ofNat 64 (w / 2 ^ 80)
    d := BitVec.ofNat 64 (w / 2 ^ 144) }

/-- The number that lays out a cycle input. -/
def CycleIn.toNat (c : CycleIn) : Nat :=
  c.h.toNat + c.t.toNat * 2 ^ 16 + c.u.toNat * 2 ^ 80 + c.d.toNat * 2 ^ 144

/-- Decode a number as one cycle's inputs, refusing by name what is none. -/
def decodeWord (w : Nat) : Except DecodeError CycleIn :=
  if w / 2 ^ 13 % 2 ^ 3 ≠ 0 then .error .headerTooWide
  else if w / 2 ^ 208 ≠ 0 then .error .operandsTooLong
  else .ok (.ofNat w)

/-- The operation a cycle's header stands for when it is read as ONE row of the table: "Rows are tested
in the order listed" (R85), so the first of the operations it selects. For a header whose other slots
request nothing that is the whole cycle (assumption log 9). -/
def CycleIn.row (c : CycleIn) : Instr :=
  if c.rst then .reset
  else if c.cocoValid then .edgeCoco c.t
  else if c.kfsValid then .edgeKfs c.u
  else decodeBus c

/-- The instruction the decoder reads from the bits `w` of an instruction whose table row has `nbits`
bits; every bit from `nbits` up is 0. -/
def decodeTableWord (nbits w : Nat) : Option Instr :=
  match decodeWord (w % 2 ^ nbits) with
  | .ok c => some c.row
  | .error _ => none

/-! ## The encoder (R80, R81, R85, R91) -/

/-- A bus header: OP in H[9:8] and A in H[7:0], every other bit 0 (R80). -/
def busHeader (op : BitVec 2) (a : Addr) : Header := (0#3 ++ op) ++ a

/-- A write of `d` to address `a` and nothing else (R91: `WR r, v`). -/
def CycleIn.write (a : Addr) (d : Word) : CycleIn :=
  { CycleIn.idle with h := busHeader 1 a, d := d }

/-- The cycle inputs that request one operation and nothing else: "the header bits the line does not
name are 0" (R91). TX.TICK has no encoding. -/
def encode : Instr → Option CycleIn
  | .reset => some { CycleIn.idle with h := 0x1000 }
  | .edgeCoco ts => some { CycleIn.idle with h := 0x0400, t := ts }
  | .edgeKfs ts => some { CycleIn.idle with h := 0x0800, u := ts }
  | .nop a => some { CycleIn.idle with h := busHeader 0 a }
  | .reserved a => some { CycleIn.idle with h := busHeader 3 a }
  | .rd a => some { CycleIn.idle with h := busHeader 2 a }
  | .wrStatus d => some (.write 0x00 d)
  | .wrIrqEn d => some (.write 0x01 d)
  | .wrCocoNominal d => some (.write 0x10 d)
  | .wrCocoTol d => some (.write 0x11 d)
  | .wrCocoRepeat d => some (.write 0x12 d)
  | .wrCocoRefract d => some (.write 0x13 d)
  | .wrKfsNominal d => some (.write 0x30 d)
  | .wrKfsTol d => some (.write 0x31 d)
  | .wrKfsRepeat d => some (.write 0x32 d)
  | .wrKfsRefract d => some (.write 0x33 d)
  | .wrTxCtrl d => some (.write 0x50 d)
  | .wrTxCocoUnit d => some (.write 0x51 d)
  | .wrTxKfsUnit d => some (.write 0x52 d)
  | .wrTxCocoMsg d => some (.write 0x53 d)
  | .wrTxKfsMsg d => some (.write 0x54 d)
  | .wrIgnored a d => some (.write a d)
  | .txTick => none

/-- Two requests in one cycle: their header and operand bits together (R86: the slots of one header
execute together). Meant for requests in different slots. -/
def CycleIn.both (a b : CycleIn) : CycleIn :=
  { h := a.h ||| b.h, t := a.t ||| b.t, u := a.u ||| b.u, d := a.d ||| b.d }

/-- The cycle inputs that request every operation of a list, TX.TICK adding nothing. -/
def encodeAll : List Instr → CycleIn
  | [] => CycleIn.idle
  | i :: is => ((encode i).getD CycleIn.idle).both (encodeAll is)

/-- The inputs of a cycle with every bit that R80 and R86 say is not read set to 0. -/
def CycleIn.normal (c : CycleIn) : CycleIn :=
  if c.rst then { CycleIn.idle with h := 0x1000 }
  else
    { h := c.h
      t := if c.cocoValid then c.t else 0
      u := if c.kfsValid then c.u else 0
      d := if c.op = 1 then c.d else 0 }

end Sys2Proof
end

