-- ==== Sys2Proof/Config.lean ====
section
/-! DEFINITION. What an implementation fixes (00_scope.md R11), the two buffer depths that shape a
type (R9), and the FREE VALUES: opaque constants, so that no proof can learn what they are. -/

namespace Sys2Proof.Config

/-- COCO_BUF_DEPTH (R9): entries of the COCO frame buffer. -/
abbrev cocoBufDepth : Nat := 131

/-- KFS_BUF_DEPTH (R9): entries of the KFS frame buffer. -/
abbrev kfsBufDepth : Nat := 67

/-- The open parameters of R11, "which a model takes as arguments". A machine's state carries them as
plain data that no operation writes (assumption log 3). -/
structure Params where
  /-- `CYCLES_PER_US`: `clk` cycles in one microsecond, an integer of at least 1 (R11). -/
  cyclesPerUs : Nat
  /-- `N_TX_PINS`: transmit output lines, 1 to 15 (R11). -/
  nTxPins : Nat
  deriving DecidableEq, Repr

/-- FREE VALUE (assumption log 6). Entry `i` of `coco.buf` after the `n`-th executed RESET: R240 leaves
the buffers "unspecified (any value)". -/
opaque freeCocoEntry (n i : Nat) : Dur

/-- FREE VALUE (assumption log 6). Entry `i` of `kfs.buf` after the `n`-th executed RESET (R240). -/
opaque freeKfsEntry (n i : Nat) : Dur

/-- FREE VALUE (assumption log 7). What the 64-bit `seq.cnt` (R52) receives when the exact cycle count
of a duration (R164) does not fit it; the spec states no result there. -/
opaque freeCycleCount (exact : Nat) : Word

end Sys2Proof.Config
end

