-- ==== Sys2Proof/Machine/State.lean ====
section
/-! DEFINITION. The state of the block (10_state.md R20, R53, R56), as plain data, and the state right
after reset. Every register of the spec has its width and its own name; the MODEL's own fields, which no
rule of the spec names, are marked so in `State`. -/

namespace Sys2Proof.Machine

/-- A transmit protocol: `tx.proto` and `seq.proto`, 0 = COCO, 1 = KFS (R48, R52). -/
inductive Proto where
  | coco
  | kfs
  deriving DecidableEq, Repr

/-- One decoder's configuration, `P.cfg` (R20, R34 to R37, R43). -/
structure DecoderCfg where
  /-- nominal pulse, microseconds -/
  nom : BitVec 16
  /-- positive tolerance, percent -/
  pos : BitVec 8
  /-- negative tolerance, percent -/
  neg : BitVec 8
  /-- repeatCount -/
  rep : BitVec 8
  /-- refractoryPeriod, whole seconds -/
  ref : BitVec 16
  deriving DecidableEq, Repr

/-- `coco.*` (R20, R39 to R42, R53). -/
structure CocoState where
  cfg : DecoderCfg
  idx : BitVec 8
  lastTs : Word
  origin : Word
  buf : Vector Dur Config.cocoBufDepth
  eff : BitVec 32
  prevCode : BitVec 32
  reps : BitVec 9
  lastHit : Word
  msgTs : Word
  msgCode : BitVec 32
  strobe : Bool
  deriving DecidableEq, Repr

/-- `kfs.*` (R20, R45 to R47, R53). -/
structure KfsState where
  cfg : DecoderCfg
  seen : Bool
  idx : BitVec 7
  lastTs : Word
  origin : Word
  buf : Vector Dur Config.kfsBufDepth
  prevCode : BitVec 24
  prevLen : BitVec 5
  reps : BitVec 9
  lastHit : Word
  msgTs : Word
  msgId : BitVec 24
  msgLen : BitVec 5
  strobe : Bool
  deriving DecidableEq, Repr

/-- `tx.*`, the encoder configuration (R48 to R51). -/
structure TxCfg where
  proto : Proto
  pin : BitVec 4
  cocoUnit : BitVec 16
  kfsUnit : BitVec 16
  cocoMsg : BitVec 32
  kfsId : BitVec 24
  kfsLen : BitVec 5
  deriving DecidableEq, Repr

/-- `seq.*`, the encoder sequencer (R52). -/
structure Seq where
  busy : Bool
  proto : Proto
  pin : BitVec 4
  msg : BitVec 32
  len : BitVec 5
  unit : BitVec 16
  idx : BitVec 8
  rep : BitVec 4
  cnt : Word
  deriving DecidableEq, Repr

/-- One bit for each sticky STATUS bit: `st.*` (R29, R31), and the `set.*` and `clr.*` wires of R69. -/
structure Sticky where
  cocoMsg : Bool
  kfsMsg : Bool
  cfgErr : Bool
  txErr : Bool
  txDone : Bool
  deriving DecidableEq, Repr

/-- No bit set. -/
def Sticky.none : Sticky :=
  { cocoMsg := false, kfsMsg := false, cfgErr := false, txErr := false, txDone := false }

/-- The block's state record, exactly R20's. -/
structure Block where
  coco : CocoState
  kfs : KfsState
  tx : TxCfg
  seq : Seq
  st : Sticky
  irqEn : BitVec 5
  errCause : BitVec 8
  deriving DecidableEq, Repr

/-- The machine's state. `blk` is the block's own; the fields after it are the MODEL's.

A cycle is R14's: every rule reads `S`, the state at the start of the cycle, and writes `S'`, and all the
writes of a cycle take effect together. `pre` is `S` and `blk` is `S'` while the operations of a cycle run;
between cycles `blk` is the block's state (assumption log 4). -/
structure State where
  /-- The block's registers: `S'` while a cycle runs, the block's state between cycles. -/
  blk : Block
  /-- MODEL: `S`, the block's state at the start of the cycle now running or last run. -/
  pre : Block
  /-- MODEL: the `set.*` wires of that cycle (R69). -/
  set : Sticky
  /-- MODEL: the `clr.*` wires of that cycle (R69). -/
  clr : Sticky
  /-- MODEL: the value of the output port `bus_rdata` in that cycle (R23, R180, R181). -/
  busRdata : Word
  /-- MODEL: what the input ports will carry in the cycles to come, the next cycle first; idle after
  the last entry (assumption log 1). -/
  inputs : List CycleIn
  /-- MODEL: the open parameters of R11, written by no operation (assumption log 3). -/
  params : Config.Params
  /-- MODEL: how many RESET operations have run; it only picks fresh free values (assumption log 6). -/
  freeCtr : Nat
  deriving DecidableEq, Repr

/-- The reset configuration of the COCO decoder (R56). -/
def DecoderCfg.cocoReset : DecoderCfg := { nom := 260, pos := 40, neg := 40, rep := 1, ref := 0 }

/-- The reset configuration of the KFS decoder (R56). -/
def DecoderCfg.kfsReset : DecoderCfg := { nom := 350, pos := 20, neg := 20, rep := 2, ref := 0 }

/-- `coco.*` after reset (R56) with `b` in the frame buffer, whose contents R56 leaves unspecified. -/
def CocoState.reset (b : Vector Dur Config.cocoBufDepth) : CocoState :=
  { cfg := .cocoReset, idx := 0, lastTs := 0, origin := 0, buf := b, eff := 0, prevCode := 0,
    reps := 0, lastHit := 0, msgTs := 0, msgCode := 0, strobe := false }

/-- `kfs.*` after reset (R56) with `b` in the frame buffer, whose contents R56 leaves unspecified. -/
def KfsState.reset (b : Vector Dur Config.kfsBufDepth) : KfsState :=
  { cfg := .kfsReset, seen := false, idx := 0, lastTs := 0, origin := 0, buf := b, prevCode := 0,
    prevLen := 0, reps := 0, lastHit := 0, msgTs := 0, msgId := 0, msgLen := 0, strobe := false }

/-- `tx.*` after reset (R56). -/
def TxCfg.reset : TxCfg :=
  { proto := .coco, pin := 0, cocoUnit := 260, kfsUnit := 350, cocoMsg := 0, kfsId := 0, kfsLen := 24 }

/-- `seq.*` after reset: every field 0 (R56). -/
def Seq.reset : Seq :=
  { busy := false, proto := .coco, pin := 0, msg := 0, len := 0, unit := 0, idx := 0, rep := 0, cnt := 0 }

/-- The block after reset (R56), given what the two frame buffers hold. -/
def Block.reset (cb : Vector Dur Config.cocoBufDepth) (kb : Vector Dur Config.kfsBufDepth) : Block :=
  { coco := .reset cb, kfs := .reset kb, tx := .reset, seq := .reset, st := .none, irqEn := 0, errCause := 0 }

/-- The block right after reset in the model's initial state: R56's values, and 0 in every buffer entry
(DESIGN CHOICE, assumption log 5: "A model may initialise to 0", 93_implementation_defined.md U1). -/
def Block.powerOn : Block := .reset (Vector.replicate _ 0) (Vector.replicate _ 0)

/-- The machine right after reset, of the parameters `p` and with the inputs `is` to come. -/
def State.resetWith (p : Config.Params) (is : List CycleIn) : State :=
  { blk := .powerOn, pre := .powerOn, set := .none, clr := .none, busRdata := 0,
    inputs := is, params := p, freeCtr := 0 }

/-- The machine right after reset (R56), no input to come, one output line (the spec's default) and one
clock cycle a microsecond (DESIGN CHOICE, assumption log 3: R11 gives CYCLES_PER_US no default). -/
def State.reset : State := .resetWith { cyclesPerUs := 1, nTxPins := 1 } []

/-- Why a step can stop the machine. It has NO constructor: "no input, header or register value can stop
the block or make its next state undefined" (93_implementation_defined.md), so no operation raises one. -/
inductive Fault where
  deriving DecidableEq, Repr

/-- Why an operation has no meaning. -/
inductive Refusal where
  /-- Raised by an arm of `exec` whose instruction has no meaning yet (safe: the run stops). No arm
  raises it: every row of the table has its meaning. -/
  | notModelled (mnemonic : String)
  deriving DecidableEq, Repr

/-- What an operation or a step answers. -/
abbrev Result := Host.Outcome State Fault Refusal

end Sys2Proof.Machine
end

