-- ==== Sys2Proof/Machine/Constants.lean ====
section
/-! DEFINITION. The fixed constants of R9 and R10 (00_scope.md), the cause codes of R211, and the names
of the host registers (R30). -/

namespace Sys2Proof.Machine

/-- COCO_LONG_UNITS. -/
abbrev cocoLongUnits : Nat := 4
/-- COCO_START_UNITS. -/
abbrev cocoStartUnits : Nat := 10
/-- COCO_END_UNITS. -/
abbrev cocoEndUnits : Nat := 40
/-- KFS_LONG_UNITS (decision D12). -/
abbrev kfsLongUnits : Nat := 3
/-- KFS_SYNC_UNITS. -/
abbrev kfsSyncUnits : Nat := 31
/-- COCO_PULSES_PER_BIT. -/
abbrev cocoPulsesPerBit : Nat := 4
/-- COCO_BITS. -/
abbrev cocoBits : Nat := 32
/-- COCO_ANALYZE_INDEX: the index of the end sync. -/
abbrev cocoAnalyzeIndex : Nat := 130
/-- COCO_EFF_DIVISOR. -/
abbrev cocoEffDivisor : Nat := 50
/-- KFS_MIN_PULSES. -/
abbrev kfsMinPulses : Nat := 5
/-- KFS_MAX_BITS. -/
abbrev kfsMaxBits : Nat := 24
/-- KFS_MIN_BITS. -/
abbrev kfsMinBits : Nat := 5
/-- COCO_TX_REPEATS. -/
abbrev cocoTxRepeats : Nat := 16
/-- KFS_TX_REPEATS. -/
abbrev kfsTxRepeats : Nat := 7
/-- COCO_TX_LEN. -/
abbrev cocoTxLen : Nat := 132
/-- REFRACT_SCALE: microseconds in a second. -/
abbrev refractScale : Nat := 1000000
/-- The value at which `reps` saturates (R152). -/
abbrev repsMax : Nat := 511

/-- The causes of CfgError (R211). -/
inductive CfgCause where
  | tolRange
  | nominalRange
  | repeatRange
  | refractRange
  | txUnitRange
  | txMsgRange
  deriving DecidableEq, Repr

/-- The causes of TxError (R211). -/
inductive TxCause where
  | noPin
  | busy
  deriving DecidableEq, Repr

/-- The code of a CfgError cause in ERR_CAUSE (R211). -/
def CfgCause.code : CfgCause → BitVec 8
  | .tolRange => 0x01
  | .nominalRange => 0x02
  | .repeatRange => 0x03
  | .refractRange => 0x04
  | .txUnitRange => 0x05
  | .txMsgRange => 0x06

/-- The code of a TxError cause in ERR_CAUSE (R211). -/
def TxCause.code : TxCause → BitVec 8
  | .noPin => 0x07
  | .busy => 0x08

/-- The value of a protocol's bit (R48, R52). -/
def Proto.bit : Proto → Bool
  | .coco => false
  | .kfs => true

/-- The protocol of a bit (R48). -/
def Proto.ofBit : Bool → Proto
  | false => .coco
  | true => .kfs

end Sys2Proof.Machine
end

