-- ==== Sys2Proof/Machine/Operands.lean ====
section
/-! DEFINITION. Operand assembly (30_encoding.md R83, R84): the fields of a write's data, "always
zero-extended and never sign-extended", and the validation column of R84's table. -/

namespace Sys2Proof.Machine

/-- `D[lo+len-1:lo]` (R12). -/
def field (lo len : Nat) (d : Word) : BitVec len := d.extractLsb' lo len

/-- The value `v` placed with its bit 0 at bit `lo` of a word, every other bit 0. -/
def place (lo : Nat) {n : Nat} (v : BitVec n) : Word := v.zeroExtend 64 <<< lo

/-- A 1-bit value placed at bit `lo`. -/
def placeBit (lo : Nat) (b : Bool) : Word := place lo (BitVec.ofBool b)

/-- D[15:0] of a NOMINAL or TX unit write. -/
def dUnit (d : Word) : BitVec 16 := field 0 16 d
/-- `D[63:16] = 0 and D[15:0] ≥ 1`: NOMINAL and TX unit writes (R184, R188, R192, R193). -/
def okUnit (d : Word) : Bool := field 16 48 d == 0 && 1 ≤ (dUnit d).toNat

/-- D[7:0] of a TOL write: POS. -/
def dPos (d : Word) : BitVec 8 := field 0 8 d
/-- D[15:8] of a TOL write: NEG. -/
def dNeg (d : Word) : BitVec 8 := field 8 8 d
/-- A tolerance in 1..100. -/
def okPercent (v : BitVec 8) : Bool := 1 ≤ v.toNat && v.toNat ≤ 100
/-- `D[63:16] = 0 and 1 ≤ D[7:0] ≤ 100 and 1 ≤ D[15:8] ≤ 100` (R185, R189). -/
def okTol (d : Word) : Bool := field 16 48 d == 0 && okPercent (dPos d) && okPercent (dNeg d)

/-- D[7:0] of a REPEAT write. -/
def dRep (d : Word) : BitVec 8 := field 0 8 d
/-- `D[63:8] = 0` (R186, R190). -/
def okRep (d : Word) : Bool := field 8 56 d == 0

/-- D[15:0] of a REFRACT write. -/
def dRef (d : Word) : BitVec 16 := field 0 16 d
/-- `D[63:16] = 0` (R187, R191). -/
def okRef (d : Word) : Bool := field 16 48 d == 0

/-- D[31:0] of a TX_COCO_MSG write. -/
def dCode (d : Word) : BitVec 32 := field 0 32 d
/-- `D[63:32] = 0` (R194). -/
def okCode (d : Word) : Bool := field 32 32 d == 0

/-- D[23:0] of a TX_KFS_MSG write: ID. -/
def dId (d : Word) : BitVec 24 := field 0 24 d
/-- D[36:32] of a TX_KFS_MSG write: LEN. -/
def dLen (d : Word) : BitVec 5 := field 32 5 d
/-- `D[31:24] = 0 and D[63:37] = 0 and 1 ≤ D[36:32] ≤ 24` (R195). -/
def okKfsMsg (d : Word) : Bool :=
  field 24 8 d == 0 && field 37 27 d == 0 && 1 ≤ (dLen d).toNat && (dLen d).toNat ≤ 24

/-- D[0] of a TX_CTRL write: START. -/
def dStart (d : Word) : Bool := d.getLsbD 0
/-- D[1] of a TX_CTRL write: PROTO. -/
def dProto (d : Word) : Proto := .ofBit (d.getLsbD 1)
/-- D[7:4] of a TX_CTRL write: PIN. -/
def dPin (d : Word) : BitVec 4 := field 4 4 d

/-- D[4:0] of a STATUS write, the clear mask, as the `clr.*` wires (R182). -/
def dClear (d : Word) : Sticky :=
  { cocoMsg := d.getLsbD 0, kfsMsg := d.getLsbD 1, cfgErr := d.getLsbD 2,
    txErr := d.getLsbD 3, txDone := d.getLsbD 4 }

/-- D[4:0] of an IRQ_EN write (R183). -/
def dIrqEn (d : Word) : BitVec 5 := field 0 5 d

end Sys2Proof.Machine
end

