-- ==== Sys2Proof/Machine/Flags.lean ====
section
/-! DEFINITION. The flags of the block: the sticky STATUS bits and their merge (20_memory.md R69), and
the interrupt line computed from them (60_exceptions.md R215). -/

namespace Sys2Proof.Machine

/-- R69's next value of one sticky bit: `(S.st.b and not clr.b) or set.b`. -/
def mergeBit (old clr set : Bool) : Bool := (old && !clr) || set

/-- R69 for all five bits. -/
def Sticky.merge (old clr set : Sticky) : Sticky :=
  { cocoMsg := mergeBit old.cocoMsg clr.cocoMsg set.cocoMsg
    kfsMsg := mergeBit old.kfsMsg clr.kfsMsg set.kfsMsg
    cfgErr := mergeBit old.cfgErr clr.cfgErr set.cfgErr
    txErr := mergeBit old.txErr clr.txErr set.txErr
    txDone := mergeBit old.txDone clr.txDone set.txDone }

/-- The interrupt output (R215). -/
def Block.irq (b : Block) : Bool :=
  (b.st.cocoMsg && b.irqEn.getLsbD 0) || (b.st.kfsMsg && b.irqEn.getLsbD 1)
    || (b.st.cfgErr && b.irqEn.getLsbD 2) || (b.st.txErr && b.irqEn.getLsbD 3)
    || (b.st.txDone && b.irqEn.getLsbD 4)

end Sys2Proof.Machine
end

