-- ==== Sys2Proof/Machine/Ops.lean ====
section
/-! DEFINITION. The shared operations. A write of a cycle goes to `S'` (`State.blk`); what it is computed
from is read from `S` (`State.pre`), as 00_scope.md R14 says. -/

namespace Sys2Proof.Machine

/-! ## Writes of one part of `S'` -/

def State.setCoco (s : State) (c : CocoState) : State := { s with blk := { s.blk with coco := c } }
def State.setKfs (s : State) (k : KfsState) : State := { s with blk := { s.blk with kfs := k } }
def State.setTx (s : State) (t : TxCfg) : State := { s with blk := { s.blk with tx := t } }
def State.setSeq (s : State) (q : Seq) : State := { s with blk := { s.blk with seq := q } }
def State.setIrqEn (s : State) (e : BitVec 5) : State := { s with blk := { s.blk with irqEn := e } }
def State.setErrCause (s : State) (c : BitVec 8) : State := { s with blk := { s.blk with errCause := c } }
def State.setCocoCfg (s : State) (c : DecoderCfg) : State := s.setCoco { s.blk.coco with cfg := c }
def State.setKfsCfg (s : State) (c : DecoderCfg) : State := s.setKfs { s.blk.kfs with cfg := c }

/-! ## Events: the `set.*` and `clr.*` wires and the bits they merge into (R69) -/

/-- `set.coco_msg` (R154). -/
def State.signalCocoMsg (s : State) : State :=
  { s with
    set := { s.set with cocoMsg := true }
    blk := { s.blk with st := { s.blk.st with cocoMsg := mergeBit s.pre.st.cocoMsg s.clr.cocoMsg true } } }

/-- `set.kfs_msg` (R154). -/
def State.signalKfsMsg (s : State) : State :=
  { s with
    set := { s.set with kfsMsg := true }
    blk := { s.blk with st := { s.blk.st with kfsMsg := mergeBit s.pre.st.kfsMsg s.clr.kfsMsg true } } }

/-- `set.cfg_err` (R212). -/
def State.signalCfgErr (s : State) : State :=
  { s with
    set := { s.set with cfgErr := true }
    blk := { s.blk with st := { s.blk.st with cfgErr := mergeBit s.pre.st.cfgErr s.clr.cfgErr true } } }

/-- `set.tx_err` (R212). -/
def State.signalTxErr (s : State) : State :=
  { s with
    set := { s.set with txErr := true }
    blk := { s.blk with st := { s.blk.st with txErr := mergeBit s.pre.st.txErr s.clr.txErr true } } }

/-- `set.tx_done` (R167). -/
def State.signalTxDone (s : State) : State :=
  { s with
    set := { s.set with txDone := true }
    blk := { s.blk with st := { s.blk.st with txDone := mergeBit s.pre.st.txDone s.clr.txDone true } } }

/-- `clr.*`: drive the clear wires and merge every sticky bit again (R69, R182). -/
def State.clearSticky (s : State) (m : Sticky) : State :=
  { s with clr := m, blk := { s.blk with st := Sticky.merge s.pre.st m s.set } }

/-! ## Error events: what this block has in place of an exception (R210, R212, R217)

An error event is the whole of "taking an exception" here: it sets a sticky bit and writes the cause, and
nothing is saved, masked or redirected. Its acknowledgement is `State.clearSticky` (R218). -/

/-- `raise CfgError(c)` (R212). -/
def State.raiseCfgError (s : State) (c : CfgCause) : State := s.signalCfgErr.setErrCause c.code

/-- `raise TxError(c)` (R212). -/
def State.raiseTxError (s : State) (c : TxCause) : State := s.signalTxErr.setErrCause c.code

/-- CheckedWrite (45_host_interface.md): commit the write, or raise CfgError and leave the register. -/
def checkedWrite (s : State) (ok : Bool) (cause : CfgCause) (commit : State) : State :=
  if ok then commit else s.raiseCfgError cause

/-! ## Frame buffers (R53, R75) -/

/-- `BufWrite(B, i, d)`. An index past the last entry, which no run reaches, writes nothing
(assumption log 10). -/
def bufWrite {n : Nat} (b : Vector Dur n) (i : Nat) (d : Dur) : Vector Dur n := b.setIfInBounds i d

/-- `BufRead(B, i)`. An index past the last entry, which no run reads, gives 0 (assumption log 10). -/
def bufRead {n : Nat} (b : Vector Dur n) (i : Nat) : Dur := b[i]?.getD 0

/-! ## Durations (R13, R110, R131) -/

/-- `sat32(v) = min(v, 2^32 − 1)`. -/
def sat32 (v : Nat) : Dur := BitVec.ofNat 32 (min v (2 ^ 32 - 1))

/-- `sat32(ts -_64 last)`: the duration that ends at an edge. -/
def duration (ts last : Word) : Dur := sat32 (ts - last).toNat

/-! ## Cycles (R66) -/

/-- The start of a cycle's step: `S` is what the block holds, `S' <- S` with both strobes 0, no event
yet, `bus_rdata` 0 unless a read drives it (R181), and this cycle's inputs consumed. -/
def State.openCycle (s : State) : State :=
  { s with
    pre := s.blk
    blk := { s.blk with
      coco := { s.blk.coco with strobe := false }
      kfs := { s.blk.kfs with strobe := false } }
    set := .none
    clr := .none
    busRdata := 0
    inputs := s.inputs.tail }

/-- What the input ports carry in the next cycle. -/
def State.nextInput (s : State) : CycleIn := s.inputs.headD .idle

end Sys2Proof.Machine
end

