-- ==== Sys2Proof/Machine/Tolerance.lean ====
section
/-! DEFINITION. The tolerance model (40_tolerance.md): the windows of a configuration, and the
classifiers over them. -/

namespace Sys2Proof.Machine

/-- An inclusive window of microsecond bounds (R15, R17). -/
structure Window where
  min : Nat
  max : Nat
  deriving DecidableEq, Repr

/-- `InWin(d, W)`, both ends inclusive (R15). -/
def Window.has (w : Window) (d : Dur) : Bool := w.min ≤ d.toNat && d.toNat ≤ w.max

/-- `Win(cfg, N)` (R100): exact products, truncated quotients. -/
def win (cfg : DecoderCfg) (n : Nat) : Window :=
  { min := cfg.nom.toNat * n * (100 - cfg.neg.toNat) / 100
    max := cfg.nom.toNat * n * (100 + cfg.pos.toNat) / 100 }

/-- `CU`, the COCO unit window (R101). -/
def winCU (cfg : DecoderCfg) : Window := win cfg 1
/-- `CL`, the COCO long window (R101). -/
def winCL (cfg : DecoderCfg) : Window := win cfg cocoLongUnits
/-- `CS`, the COCO start-sync window (R101). -/
def winCS (cfg : DecoderCfg) : Window := win cfg cocoStartUnits
/-- `CE`, the COCO end-sync window (R101). -/
def winCE (cfg : DecoderCfg) : Window := win cfg cocoEndUnits
/-- `KU`, the KFS unit window (R102). -/
def winKU (cfg : DecoderCfg) : Window := win cfg 1
/-- `KL`, the KFS long window (R102). -/
def winKL (cfg : DecoderCfg) : Window := win cfg kfsLongUnits
/-- `KS`, the KFS sync window (R102). -/
def winKS (cfg : DecoderCfg) : Window := win cfg kfsSyncUnits

/-! The classifier outputs (R104). A duration may satisfy several, or none. -/

def isU (cfg : DecoderCfg) (d : Dur) : Bool := (winCU cfg).has d
def isL (cfg : DecoderCfg) (d : Dur) : Bool := (winCL cfg).has d
def isS (cfg : DecoderCfg) (d : Dur) : Bool := (winCS cfg).has d
def isE (cfg : DecoderCfg) (d : Dur) : Bool := (winCE cfg).has d
def isKU (cfg : DecoderCfg) (d : Dur) : Bool := (winKU cfg).has d
def isKL (cfg : DecoderCfg) (d : Dur) : Bool := (winKL cfg).has d
def isKS (cfg : DecoderCfg) (d : Dur) : Bool := (winKS cfg).has d

end Sys2Proof.Machine
end

