-- ==== Sys2Proof/Machine/Filter.lean ====
section
/-! DEFINITION. The repeat / debounce filter (43_repeat_filter.md). One instance per decoder: the verdict
is computed once, and each decoder's instance writes its own fields. An instance reads `S` and writes `S'`
and answers whether it accepted (the wire `set.coco_msg` or `set.kfs_msg`). -/

namespace Sys2Proof.Machine

/-- What the filter does with a candidate (the three branches of R150). -/
inductive FilterVerdict where
  /-- A repeat that reaches `rep` outside the refractory period (R153): `Accept`, `reps <- 0`. -/
  | accept
  /-- Any other repeat: `reps <- r`. -/
  | count (r : BitVec 9)
  /-- A different candidate: record it, `reps <- 0` (R155). -/
  | record
  deriving DecidableEq, Repr

/-- `min(reps + 1, 511)` (R152). -/
def bumpReps (reps : BitVec 9) : BitVec 9 := BitVec.ofNat 9 (min (reps.toNat + 1) repsMax)

/-- R150's decision for a candidate with timestamp `t`, where `same` is R151's match condition. -/
def filterVerdict (cfg : DecoderCfg) (same : Bool) (reps : BitVec 9) (lastHit t : Word) : FilterVerdict :=
  if same then
    let r := bumpReps reps
    if r.toNat = cfg.rep.toNat ∧ cfg.ref.toNat * refractScale < (t - lastHit).toNat then .accept
    else .count r
  else .record

/-- `RepeatFilter(COCO, code, 0, t)` and its `Accept` (R150, R154). -/
def cocoFilter (S S' : CocoState) (code : BitVec 32) (t : Word) : CocoState × Bool :=
  match filterVerdict S.cfg (code == S.prevCode) S.reps S.lastHit t with
  | .accept =>
    ({ S' with lastHit := t, msgTs := t, msgCode := code, strobe := true, reps := 0 }, true)
  | .count r => ({ S' with reps := r }, false)
  | .record => ({ S' with reps := 0, prevCode := code }, false)

/-- `RepeatFilter(KFS, code, len, t)` and its `Accept` (R150, R154). -/
def kfsFilter (S S' : KfsState) (code : BitVec 24) (len : BitVec 5) (t : Word) : KfsState × Bool :=
  match filterVerdict S.cfg (code == S.prevCode && len == S.prevLen) S.reps S.lastHit t with
  | .accept =>
    ({ S' with lastHit := t, msgTs := t, msgId := code, msgLen := len, strobe := true, reps := 0 }, true)
  | .count r => ({ S' with reps := r }, false)
  | .record => ({ S' with reps := 0, prevCode := code, prevLen := len }, false)

end Sys2Proof.Machine
end

