-- ==== Sys2Proof/Machine/CocoDecoder.lean ====
section
/-! DEFINITION. The COCO decoder (41_coco_decoder.md): EDGE.COCO and CocoAnalyze. Windows and classifiers
are those of the pre-state configuration `S.coco.cfg`. -/

namespace Sys2Proof.Machine

/-- The group of four at entries `1+4k .. 4+4k` (R116): its bit, or `none` for REJECT. The '0' pattern is
tested first. -/
def cocoGroup (cfg : DecoderCfg) (B : Vector Dur Config.cocoBufDepth) (k : Nat) : Option Bool :=
  let g0 := bufRead B (1 + cocoPulsesPerBit * k)
  let g1 := bufRead B (2 + cocoPulsesPerBit * k)
  let g2 := bufRead B (3 + cocoPulsesPerBit * k)
  let g3 := bufRead B (4 + cocoPulsesPerBit * k)
  if isU cfg g0 && isU cfg g1 && isU cfg g2 && isL cfg g3 then some false
  else if isU cfg g0 && isL cfg g1 && isU cfg g2 && isU cfg g3 then some true
  else none

/-- `(code << 1) or bit`, of the width of `code` (R117, R136). -/
def shiftIn {n : Nat} (code : BitVec n) (bit : Bool) : BitVec n :=
  (code <<< 1) ||| (BitVec.ofBool bit).zeroExtend n

/-- The walk over `n` more groups from group `k` on (R117); a REJECT stops it (R118). -/
def cocoWalkFrom (cfg : DecoderCfg) (B : Vector Dur Config.cocoBufDepth) :
    (n k : Nat) → BitVec 32 → Option (BitVec 32)
  | 0, _, code => some code
  | n + 1, k, code =>
    match cocoGroup cfg B k with
    | none => none
    | some bit => cocoWalkFrom cfg B n (k + 1) (shiftIn code bit)

/-- All 32 groups: the code, or `none` where the frame is Rejected (R116 to R118). Entries 129 and 130
are in no group (R121). -/
def cocoWalk (cfg : DecoderCfg) (B : Vector Dur Config.cocoBufDepth) : Option (BitVec 32) :=
  cocoWalkFrom cfg B cocoBits 0 0

/-- `(B[0] + B[130]) div 50`, the exact sum (R115). -/
def cocoEff (B : Vector Dur Config.cocoBufDepth) : BitVec 32 :=
  BitVec.ofNat 32 (((bufRead B 0).toNat + (bufRead B cocoAnalyzeIndex).toNat) / cocoEffDivisor)

/-- `CocoAnalyze(B, org)` (R115 to R119). -/
def cocoAnalyze (S S' : CocoState) (B : Vector Dur Config.cocoBufDepth) (org : Word) : CocoState × Bool :=
  match cocoWalk S.cfg B with
  | none => ({ S' with eff := cocoEff B, prevCode := 0 }, false)
  | some code => cocoFilter S { S' with eff := cocoEff B } code org

/-- The write index after the start-sync test (R111, R112). -/
def cocoStoreIdx (S : CocoState) (d : Dur) : BitVec 8 := if isS S.cfg d then 0 else S.idx

/-- `EdgeCoco(S, ts)` (R111): what one COCO edge writes to `coco.*` of `S'`, and whether a message was
accepted. -/
def cocoEdge (S S' : CocoState) (ts : Word) : CocoState × Bool :=
  let d := duration ts S.lastTs
  let i1 := cocoStoreIdx S d
  let stored : CocoState :=
    { S' with
      lastTs := ts
      origin := if isS S.cfg d then ts else S'.origin
      buf := bufWrite S'.buf i1.toNat d
      idx := if i1.toNat = cocoAnalyzeIndex then 0 else i1 + 1 }
  if isE S.cfg d && i1.toNat == cocoAnalyzeIndex then
    cocoAnalyze S stored (bufWrite S.buf i1.toNat d) (if isS S.cfg d then ts else S.origin)
  else (stored, false)

/-- EDGE.COCO (R111). -/
def execEdgeCoco (ts : Word) (s : State) : Result :=
  let r := cocoEdge s.pre.coco s.blk.coco ts
  .next (if r.2 then (s.setCoco r.1).signalCocoMsg else s.setCoco r.1)

end Sys2Proof.Machine
end

