-- ==== Sys2Proof/Machine/KfsDecoder.lean ====
section
/-! DEFINITION. The KFS decoder (42_kfs_decoder.md): EDGE.KFS and KfsAnalyze. Windows and classifiers are
those of the pre-state configuration `S.kfs.cfg`. -/

namespace Sys2Proof.Machine

/-- The pair at entries `j`, `j+1` (R136): its bit, or `none` where it matches neither pattern. The '0'
pattern, (short, long), is tested first (R137). -/
def kfsPair (cfg : DecoderCfg) (B : Vector Dur Config.kfsBufDepth) (j : Nat) : Option Bool :=
  if isKU cfg (bufRead B j) && isKL cfg (bufRead B (j + 1)) then some false
  else if isKL cfg (bufRead B j) && isKU cfg (bufRead B (j + 1)) then some true
  else none

/-- The pair walk of R136 with `room` bits left before the cap (R138): from entry `j`, the code and the
number of bits after it. `n` is the number of stored entries. -/
def kfsWalkFrom (cfg : DecoderCfg) (B : Vector Dur Config.kfsBufDepth) (n : Nat) :
    (room j : Nat) → (code : BitVec 24) → (bits : Nat) → BitVec 24 × Nat
  | 0, _, code, bits => (code, bits)
  | room + 1, j, code, bits =>
    if j + 1 < n then
      match kfsPair cfg B j with
      | none => (code, bits)
      | some bit => kfsWalkFrom cfg B n room (j + 2) (shiftIn code bit) (bits + 1)
    else (code, bits)

/-- The walk of a frame of `n` stored entries, entry 0 skipped (R136). -/
def kfsWalk (cfg : DecoderCfg) (B : Vector Dur Config.kfsBufDepth) (n : Nat) : BitVec 24 × Nat :=
  kfsWalkFrom cfg B n kfsMaxBits 1 0 0

/-- R139: a walk's result is a candidate exactly when the code is not 0 and it has at least 5 bits. -/
def kfsValid (w : BitVec 24 × Nat) : Bool := w.1 != 0 && kfsMinBits ≤ w.2

/-- `KfsAnalyze(B, n, org)` (R136 to R141). -/
def kfsAnalyze (S S' : KfsState) (B : Vector Dur Config.kfsBufDepth) (n : Nat) (org : Word) :
    KfsState × Bool :=
  let w := kfsWalk S.cfg B n
  if kfsValid w then kfsFilter S S' w.1 (BitVec.ofNat 5 w.2) org
  else ({ S' with prevCode := 0 }, false)

/-- `EdgeKfs(S, ts)` (R132): what one KFS edge writes to `kfs.*` of `S'`, and whether a message was
accepted. -/
def kfsEdge (S S' : KfsState) (ts : Word) : KfsState × Bool :=
  if S.seen then
    let d := duration ts S.lastTs
    let sync := isKS S.cfg d
    let an := if sync && kfsMinPulses ≤ S.idx.toNat then kfsAnalyze S S' S.buf S.idx.toNat S.origin
      else (S', false)
    let i : BitVec 7 := if sync then 0 else if S.idx.toNat = Config.kfsBufDepth then 0 else S.idx
    ({ an.1 with
        lastTs := ts
        origin := if sync then ts else an.1.origin
        buf := bufWrite an.1.buf i.toNat d
        idx := i + 1 }, an.2)
  else ({ S' with seen := true, lastTs := ts }, false)

/-- EDGE.KFS (R132). -/
def execEdgeKfs (ts : Word) (s : State) : Result :=
  let r := kfsEdge s.pre.kfs s.blk.kfs ts
  .next (if r.2 then (s.setKfs r.1).signalKfsMsg else s.setKfs r.1)

end Sys2Proof.Machine
end

