-- ==== Sys2Proof/Machine/Encoder.lean ====
section
/-! DEFINITION. The OOK encoder (44_encoder.md): the mapper, the start (WR TX_CTRL) and the sequencer
tick (TX.TICK). -/

namespace Sys2Proof.Machine

/-! ## The mapper -/

/-- The four durations of one COCO bit (R160). -/
def cocoBitSeq (b : Bool) (u : Nat) : List Nat :=
  if b then [u, cocoLongUnits * u, u, u] else [u, u, u, cocoLongUnits * u]

/-- `CocoSeq(c, u)` (R160): 132 durations, most significant bit first. -/
def cocoSeq (c : BitVec 32) (u : Nat) : List Nat :=
  [u, cocoStartUnits * u]
    ++ (List.range cocoBits).flatMap (fun k => cocoBitSeq (c.getLsbD (cocoBits - 1 - k)) u)
    ++ [u, cocoEndUnits * u]

/-- The two durations of one KFS bit (R161). -/
def kfsBitSeq (b : Bool) (u : Nat) : List Nat :=
  if b then [kfsLongUnits * u, u] else [u, kfsLongUnits * u]

/-- `KfsSeq(id, n, u)` (R161): `2 + 2·n` durations, bit n−1 first; bits at or above `n` are not sent. -/
def kfsSeq (id : BitVec 32) (n u : Nat) : List Nat :=
  [u, kfsSyncUnits * u] ++ (List.range n).flatMap (fun k => kfsBitSeq (id.getLsbD (n - 1 - k)) u)

/-- The sequence of the latched message (R166). -/
def Seq.durations (q : Seq) : List Nat :=
  match q.proto with
  | .coco => cocoSeq q.msg q.unit.toNat
  | .kfs => kfsSeq q.msg q.len.toNat q.unit.toNat

/-- L, the length of the sequence (R166). -/
def Seq.seqLen (q : Seq) : Nat :=
  match q.proto with
  | .coco => cocoTxLen
  | .kfs => 2 + 2 * q.len.toNat

/-- R, the repetitions of a protocol (R162). -/
def Proto.repeats : Proto → Nat
  | .coco => cocoTxRepeats
  | .kfs => kfsTxRepeats

/-- `q[i]`, a duration of the sequence in microseconds. -/
def Seq.durationAt (q : Seq) (i : Nat) : Nat := q.durations.getD i 0

/-- `q × CYCLES_PER_US` (R164) as `seq.cnt` holds it: the exact product where 64 bits hold it, a free
value where they do not (assumption log 7). -/
def cycleCount (p : Config.Params) (q : Nat) : Word :=
  if q * p.cyclesPerUs < 2 ^ 64 then BitVec.ofNat 64 (q * p.cyclesPerUs)
  else Config.freeCycleCount (q * p.cyclesPerUs)

/-! ## Start (R165) -/

/-- What a successful start latches (R165, R169): the message, length and unit of the pre-state `tx.*`,
the protocol and pin of the write. -/
def startSeq (p : Config.Params) (tx : TxCfg) (proto : Proto) (pin : BitVec 4) : Seq :=
  match proto with
  | .coco =>
    { busy := true, proto := .coco, pin := pin, msg := tx.cocoMsg, len := 0, unit := tx.cocoUnit,
      idx := 0, rep := 0, cnt := cycleCount p tx.cocoUnit.toNat }
  | .kfs =>
    { busy := true, proto := .kfs, pin := pin, msg := tx.kfsId.zeroExtend 32, len := tx.kfsLen,
      unit := tx.kfsUnit, idx := 0, rep := 0, cnt := cycleCount p tx.kfsUnit.toNat }

/-- WR TX_CTRL (R165). PROTO and PIN are always stored; busy is tested before the pin (R216). -/
def execWrTxCtrl (d : Word) (s : State) : Result :=
  let s1 := s.setTx { s.blk.tx with proto := dProto d, pin := dPin d }
  .next
    (if dStart d then
      if s.pre.seq.busy then s1.raiseTxError .busy
      else if (dPin d).toNat = 0 ∨ s.params.nTxPins < (dPin d).toNat then s1.raiseTxError .noPin
      else s1.setSeq (startSeq s.params s.pre.tx (dProto d) (dPin d))
    else s1)

/-! ## Sequencer (R166, R167) -/

/-- `TxTick(S)` of a busy sequencer: what it writes to `seq.*` of `S'`, and whether it completes the
transmission. -/
def seqTick (p : Config.Params) (S S' : Seq) : Seq × Bool :=
  if 1 < S.cnt.toNat then ({ S' with cnt := S.cnt - 1 }, false)
  else if S.idx.toNat + 1 < S.seqLen then
    ({ S' with idx := S.idx + 1, cnt := cycleCount p (S.durationAt (S.idx.toNat + 1)) }, false)
  else if S.rep.toNat + 1 < S.proto.repeats then
    ({ S' with rep := S.rep + 1, idx := 0, cnt := cycleCount p (S.durationAt 0) }, false)
  else ({ S' with busy := false, idx := 0, rep := 0, cnt := 0 }, true)

/-- TX.TICK (R166). It acts "if S.seq.busy = 1" (R66); otherwise it writes nothing (assumption log 11). -/
def execTxTick (s : State) : Result :=
  if s.pre.seq.busy then
    let r := seqTick s.params s.pre.seq s.blk.seq
    .next (if r.2 then (s.setSeq r.1).signalTxDone else s.setSeq r.1)
  else .next s

end Sys2Proof.Machine
end

