-- ==== Sys2Proof/Machine/HostBus.lean ====
section
/-! DEFINITION. The host interface (45_host_interface.md): register reads, register writes, ignored
writes and no-ops. A read sees the pre-state of its cycle (R67). -/

namespace Sys2Proof.Machine

/-- `W(w) = w.max<<32 | w.min`, the two 24-bit fields of a window register (R38, R180). -/
def packWindow (w : Window) : Word := place 32 (BitVec.ofNat 24 w.max) ||| place 0 (BitVec.ofNat 24 w.min)

/-- STATUS as read (R31). -/
def packStatus (S : Block) : Word :=
  placeBit 0 S.st.cocoMsg ||| placeBit 1 S.st.kfsMsg ||| placeBit 2 S.st.cfgErr
    ||| placeBit 3 S.st.txErr ||| placeBit 4 S.st.txDone ||| placeBit 8 S.seq.busy

/-- COCO_TOL and KFS_TOL as read (R35, R43). -/
def packTol (cfg : DecoderCfg) : Word := place 8 cfg.neg ||| place 0 cfg.pos

/-- LEVEL: the level the sequencer drives on its pin (R52, R168). -/
def Seq.level (q : Seq) : Bool := q.busy && q.idx.toNat % 2 == 0

/-- TX_POS as read (R52). -/
def packTxPos (q : Seq) : Word :=
  place 20 q.pin ||| placeBit 17 q.proto.bit ||| placeBit 16 q.level ||| place 8 q.rep ||| place 0 q.idx

/-- TX_LATCH as read (R52). -/
def packTxLatch (q : Seq) : Word := place 48 q.unit ||| place 32 q.len ||| place 0 q.msg

/-- TX_CTRL as read (R48); START reads 0. -/
def packTxCtrl (S : Block) : Word :=
  placeBit 8 S.seq.busy ||| place 4 S.tx.pin ||| placeBit 1 S.tx.proto.bit

/-- The mapped registers of R30 with what `Pack(S, ·)` gives for each (R180). -/
def registerMap (S : Block) : List (Addr × Word) :=
  [ (0x00, packStatus S),
    (0x01, place 0 S.irqEn),
    (0x02, place 0 S.errCause),
    (0x10, place 0 S.coco.cfg.nom),
    (0x11, packTol S.coco.cfg),
    (0x12, place 0 S.coco.cfg.rep),
    (0x13, place 0 S.coco.cfg.ref),
    (0x14, packWindow (winCU S.coco.cfg)),
    (0x15, packWindow (winCL S.coco.cfg)),
    (0x16, packWindow (winCS S.coco.cfg)),
    (0x17, packWindow (winCE S.coco.cfg)),
    (0x18, place 0 S.coco.idx),
    (0x19, S.coco.lastTs),
    (0x1A, S.coco.origin),
    (0x1B, place 0 S.coco.prevCode),
    (0x1C, place 0 S.coco.reps),
    (0x1D, S.coco.lastHit),
    (0x1E, place 0 S.coco.eff),
    (0x1F, S.coco.msgTs),
    (0x20, place 0 S.coco.msgCode),
    (0x30, place 0 S.kfs.cfg.nom),
    (0x31, packTol S.kfs.cfg),
    (0x32, place 0 S.kfs.cfg.rep),
    (0x33, place 0 S.kfs.cfg.ref),
    (0x34, packWindow (winKU S.kfs.cfg)),
    (0x35, packWindow (winKL S.kfs.cfg)),
    (0x36, packWindow (winKS S.kfs.cfg)),
    (0x38, placeBit 8 S.kfs.seen ||| place 0 S.kfs.idx),
    (0x39, S.kfs.lastTs),
    (0x3A, S.kfs.origin),
    (0x3B, place 32 S.kfs.prevLen ||| place 0 S.kfs.prevCode),
    (0x3C, place 0 S.kfs.reps),
    (0x3D, S.kfs.lastHit),
    (0x3F, S.kfs.msgTs),
    (0x40, place 32 S.kfs.msgLen ||| place 0 S.kfs.msgId),
    (0x50, packTxCtrl S),
    (0x51, place 0 S.tx.cocoUnit),
    (0x52, place 0 S.tx.kfsUnit),
    (0x53, place 0 S.tx.cocoMsg),
    (0x54, place 32 S.tx.kfsLen ||| place 0 S.tx.kfsId),
    (0x55, packTxPos S.seq),
    (0x56, S.seq.cnt),
    (0x57, packTxLatch S.seq) ]

/-- `Pack(S, a)`, that is `MemRead(a, 8)`: a mapped register's word, 0 for every unmapped address
(R55, R65, R180). -/
def pack (S : Block) (a : Addr) : Word := ((registerMap S).lookup a).getD 0

/-- RD A (R180): `bus_rdata` carries the register as it was at the start of the cycle. -/
def execRd (a : Addr) (s : State) : Result := .next { s with busRdata := pack s.pre a }

/-! ## No-ops (R196, R197). `bus_rdata` stays at the 0 that `State.openCycle` gives it (R181). -/

/-- NOP (R197). -/
def execNop (_a : Addr) (s : State) : Result := .next s

/-- The reserved OP = 11 (R87, R197). -/
def execReserved (_a : Addr) (s : State) : Result := .next s

/-- A write to a read-only or unmapped address (R196). -/
def execWrIgnored (_a : Addr) (_d : Word) (s : State) : Result := .next s

/-! ## Global writes -/

/-- WR STATUS (R182): write 1 to clear. -/
def execWrStatus (d : Word) (s : State) : Result := .next (s.clearSticky (dClear d))

/-- WR IRQ_EN (R183). -/
def execWrIrqEn (d : Word) (s : State) : Result := .next (s.setIrqEn (dIrqEn d))

/-! ## Decoder configuration writes -/

/-- WR COCO_NOMINAL (R184). -/
def execWrCocoNominal (d : Word) (s : State) : Result :=
  .next (checkedWrite s (okUnit d) .nominalRange (s.setCocoCfg { s.blk.coco.cfg with nom := dUnit d }))

/-- WR COCO_TOL (R185). -/
def execWrCocoTol (d : Word) (s : State) : Result :=
  .next (checkedWrite s (okTol d) .tolRange
    (s.setCocoCfg { s.blk.coco.cfg with pos := dPos d, neg := dNeg d }))

/-- WR COCO_REPEAT (R186). -/
def execWrCocoRepeat (d : Word) (s : State) : Result :=
  .next (checkedWrite s (okRep d) .repeatRange (s.setCocoCfg { s.blk.coco.cfg with rep := dRep d }))

/-- WR COCO_REFRACT (R187). -/
def execWrCocoRefract (d : Word) (s : State) : Result :=
  .next (checkedWrite s (okRef d) .refractRange (s.setCocoCfg { s.blk.coco.cfg with ref := dRef d }))

/-- WR KFS_NOMINAL (R188). -/
def execWrKfsNominal (d : Word) (s : State) : Result :=
  .next (checkedWrite s (okUnit d) .nominalRange (s.setKfsCfg { s.blk.kfs.cfg with nom := dUnit d }))

/-- WR KFS_TOL (R189). -/
def execWrKfsTol (d : Word) (s : State) : Result :=
  .next (checkedWrite s (okTol d) .tolRange
    (s.setKfsCfg { s.blk.kfs.cfg with pos := dPos d, neg := dNeg d }))

/-- WR KFS_REPEAT (R190). -/
def execWrKfsRepeat (d : Word) (s : State) : Result :=
  .next (checkedWrite s (okRep d) .repeatRange (s.setKfsCfg { s.blk.kfs.cfg with rep := dRep d }))

/-- WR KFS_REFRACT (R191). -/
def execWrKfsRefract (d : Word) (s : State) : Result :=
  .next (checkedWrite s (okRef d) .refractRange (s.setKfsCfg { s.blk.kfs.cfg with ref := dRef d }))

/-! ## Encoder configuration writes -/

/-- WR TX_COCO_UNIT (R192). -/
def execWrTxCocoUnit (d : Word) (s : State) : Result :=
  .next (checkedWrite s (okUnit d) .txUnitRange (s.setTx { s.blk.tx with cocoUnit := dUnit d }))

/-- WR TX_KFS_UNIT (R193). -/
def execWrTxKfsUnit (d : Word) (s : State) : Result :=
  .next (checkedWrite s (okUnit d) .txUnitRange (s.setTx { s.blk.tx with kfsUnit := dUnit d }))

/-- WR TX_COCO_MSG (R194). -/
def execWrTxCocoMsg (d : Word) (s : State) : Result :=
  .next (checkedWrite s (okCode d) .txMsgRange (s.setTx { s.blk.tx with cocoMsg := dCode d }))

/-- WR TX_KFS_MSG (R195). -/
def execWrTxKfsMsg (d : Word) (s : State) : Result :=
  .next (checkedWrite s (okKfsMsg d) .txMsgRange
    (s.setTx { s.blk.tx with kfsId := dId d, kfsLen := dLen d }))

end Sys2Proof.Machine
end

