-- ==== Sys2Proof/Machine/Reset.lean ====
section
/-! DEFINITION. RESET (70_reset_and_hazards.md R240 to R242), and the output ports of the block
(10_state.md R24 to R26). -/

namespace Sys2Proof.Machine

/-- What `coco.buf` holds after the `n`-th RESET: "unspecified (any value)" (R240), a free value. -/
def freeCocoBuf (n : Nat) : Vector Dur Config.cocoBufDepth :=
  Vector.ofFn (fun i => Config.freeCocoEntry n i.val)

/-- What `kfs.buf` holds after the `n`-th RESET (R240), a free value. -/
def freeKfsBuf (n : Nat) : Vector Dur Config.kfsBufDepth :=
  Vector.ofFn (fun i => Config.freeKfsEntry n i.val)

/-- RESET (R240): every register takes R56's value, whatever else the cycle did; `bus_rdata` is 0 (R181). -/
def execReset (s : State) : Result :=
  .next { s with
    blk := .reset (freeCocoBuf s.freeCtr) (freeKfsBuf s.freeCtr)
    set := .none
    clr := .none
    busRdata := 0
    freeCtr := s.freeCtr + 1 }

/-! ## Output ports: functions of the block's state alone (R26) -/

/-- `coco_msg_valid` (R24). -/
def Block.cocoMsgValid (b : Block) : Bool := b.coco.strobe
/-- `coco_msg_ts` (R24). -/
def Block.cocoMsgTs (b : Block) : Word := b.coco.msgTs
/-- `coco_msg_code` (R24). -/
def Block.cocoMsgCode (b : Block) : BitVec 32 := b.coco.msgCode
/-- The address field of a COCO code, `c[31:6]` (R120). -/
def cocoAddress (c : BitVec 32) : BitVec 26 := c.extractLsb' 6 26
/-- The group field, `c[5]` (R120). -/
def cocoGroupBit (c : BitVec 32) : Bool := c.getLsbD 5
/-- The on/off field, `c[4]` (R120). -/
def cocoOnOff (c : BitVec 32) : Bool := c.getLsbD 4
/-- The channel field, `c[3:0]` (R120). -/
def cocoChannel (c : BitVec 32) : BitVec 4 := c.extractLsb' 0 4
/-- `coco_msg_address` (R24). -/
def Block.cocoMsgAddress (b : Block) : BitVec 26 := cocoAddress b.coco.msgCode
/-- `coco_msg_group` (R24). -/
def Block.cocoMsgGroup (b : Block) : Bool := cocoGroupBit b.coco.msgCode
/-- `coco_msg_onoff` (R24). -/
def Block.cocoMsgOnOff (b : Block) : Bool := cocoOnOff b.coco.msgCode
/-- `coco_msg_channel` (R24). -/
def Block.cocoMsgChannel (b : Block) : BitVec 4 := cocoChannel b.coco.msgCode
/-- `kfs_msg_valid` (R25). -/
def Block.kfsMsgValid (b : Block) : Bool := b.kfs.strobe
/-- `kfs_msg_ts` (R25). -/
def Block.kfsMsgTs (b : Block) : Word := b.kfs.msgTs
/-- `kfs_msg_id` (R25). -/
def Block.kfsMsgId (b : Block) : BitVec 24 := b.kfs.msgId
/-- `kfs_msg_len` (R25). -/
def Block.kfsMsgLen (b : Block) : BitVec 5 := b.kfs.msgLen
/-- `tx_out[p]`, for p in 0..N_TX_PINS−1 (R168). -/
def Block.txOut (b : Block) (p : Nat) : Bool := b.seq.level && b.seq.pin.toNat == p + 1

end Sys2Proof.Machine
end

