-- ==== Sys2Proof/Machine/Dispatch.lean ====
section
/-! DEFINITION. `exec`: one arm per row of spec/opcode_table.json, each one call of its meaning. An
operation's meaning reads `S` (`State.pre`) and writes `S'` (`State.blk`). -/

namespace Sys2Proof.Machine

def exec (i : Instr) (s : State) : Host.Outcome State Fault Refusal :=
  match i with
  | .reset => Sys2Proof.Machine.execReset s
  | .edgeCoco ts => Sys2Proof.Machine.execEdgeCoco ts s
  | .edgeKfs ts => Sys2Proof.Machine.execEdgeKfs ts s
  | .nop a => Sys2Proof.Machine.execNop a s
  | .reserved a => Sys2Proof.Machine.execReserved a s
  | .rd a => Sys2Proof.Machine.execRd a s
  | .wrStatus d => Sys2Proof.Machine.execWrStatus d s
  | .wrIrqEn d => Sys2Proof.Machine.execWrIrqEn d s
  | .wrCocoNominal d => Sys2Proof.Machine.execWrCocoNominal d s
  | .wrCocoTol d => Sys2Proof.Machine.execWrCocoTol d s
  | .wrCocoRepeat d => Sys2Proof.Machine.execWrCocoRepeat d s
  | .wrCocoRefract d => Sys2Proof.Machine.execWrCocoRefract d s
  | .wrKfsNominal d => Sys2Proof.Machine.execWrKfsNominal d s
  | .wrKfsTol d => Sys2Proof.Machine.execWrKfsTol d s
  | .wrKfsRepeat d => Sys2Proof.Machine.execWrKfsRepeat d s
  | .wrKfsRefract d => Sys2Proof.Machine.execWrKfsRefract d s
  | .wrTxCtrl d => Sys2Proof.Machine.execWrTxCtrl d s
  | .wrTxCocoUnit d => Sys2Proof.Machine.execWrTxCocoUnit d s
  | .wrTxKfsUnit d => Sys2Proof.Machine.execWrTxKfsUnit d s
  | .wrTxCocoMsg d => Sys2Proof.Machine.execWrTxCocoMsg d s
  | .wrTxKfsMsg d => Sys2Proof.Machine.execWrTxKfsMsg d s
  | .wrIgnored a d => Sys2Proof.Machine.execWrIgnored a d s
  | .txTick => Sys2Proof.Machine.execTxTick s

end Sys2Proof.Machine
end

