-- ==== Sys2Proof/Machine/Cycle.lean ====
section
/-! DEFINITION. One clock cycle (20_memory.md R66, R86): every operation that the cycle's slots select,
over one pre-state. -/

namespace Sys2Proof.Machine

/-- Run the operations of a cycle. Each reads `S` and writes `S'`, so their order does not matter (R66). -/
def runOps : List Instr → State → Result
  | [], s => .next s
  | i :: is, s =>
    match exec i s with
    | .next t => runOps is t
    | .fault r => .fault r
    | .refused r => .refused r

/-- `Step(S, in)` (R66): one cycle with the inputs `c`. -/
def cycle (c : CycleIn) (s : State) : Result :=
  runOps (decodeCycle s.blk.seq.busy c) s.openCycle

end Sys2Proof.Machine
end

