-- ==== Sys2Proof/Machine/Step.lean ====
section
/-! DEFINITION. The step: the next clock cycle, with what the input ports carry in it. -/

namespace Sys2Proof.Machine

/-- One clock cycle (R66) with the next entry of the input schedule, or with idle inputs past its end. -/
def step (s : State) : Host.Outcome State Fault Refusal := cycle s.nextInput s

/-- The input ports' next cycle carries the inputs that `w` lays out (`Sys2Proof.CycleIn.ofNat`), in place of what it
would have carried. -/
def State.withFetchWord (s : State) (nbits w : Nat) : State :=
  { s with inputs := CycleIn.ofNat (w % 2 ^ nbits) :: s.inputs.tail }

end Sys2Proof.Machine
end

