-- ==== Sys2Proof/Safety.lean ====
section
/-! DEFINITION. What counts as a legal machine and a safe state (10_state.md R57), which states a host
cannot tell apart (R54, R240), and the terms that the statements use. -/

namespace Sys2Proof.Machine

/-! ## Legal values (R34 to R37, R49, R51, R84) -/

/-- Legal parameters (R11), with every cycle count of R164 inside the 64 bits of `seq.cnt` (R52): the
longest duration is 40 units of 65535 microseconds (assumption log 7). -/
abbrev ParamsLegal (p : Config.Params) : Prop :=
  1 ≤ p.cyclesPerUs ∧ 40 * 65535 * p.cyclesPerUs < 2 ^ 64 ∧ 1 ≤ p.nTxPins ∧ p.nTxPins ≤ 15

/-- A decoder configuration holds legal values: nominal 1..65535, tolerances 1..100 (R34, R35, R43). -/
abbrev DecoderCfg.Legal (c : DecoderCfg) : Prop :=
  1 ≤ c.nom.toNat ∧ 1 ≤ c.pos.toNat ∧ c.pos.toNat ≤ 100 ∧ 1 ≤ c.neg.toNat ∧ c.neg.toNat ≤ 100

/-- The encoder configuration holds legal values: units 1..65535, LEN 1..24 (R49, R51). -/
abbrev TxCfg.Legal (t : TxCfg) : Prop :=
  1 ≤ t.cocoUnit.toNat ∧ 1 ≤ t.kfsUnit.toNat ∧ 1 ≤ t.kfsLen.toNat ∧ t.kfsLen.toNat ≤ 24

/-- A latched message is one that a start can latch: a unit of at least 1, a KFS length 1..24, and a pin
that exists. -/
abbrev Seq.Latched (p : Config.Params) (q : Seq) : Prop :=
  1 ≤ q.unit.toNat ∧ (q.proto = .kfs → 1 ≤ q.len.toNat ∧ q.len.toNat ≤ 24)
    ∧ 1 ≤ q.pin.toNat ∧ q.pin.toNat ≤ p.nTxPins

/-- R57's two clauses about the sequencer, and what a running transmission has latched. -/
abbrev Seq.Inv (p : Config.Params) (q : Seq) : Prop :=
  (q.busy = false → q.idx = 0 ∧ q.rep = 0 ∧ q.cnt = 0)
    ∧ (q.busy = true → 1 ≤ q.cnt.toNat ∧ q.idx.toNat < q.seqLen ∧ q.rep.toNat < q.proto.repeats
        ∧ q.Latched p)

/-- R57's invariants of the block, with R211's "0x09–0xFF never written". -/
abbrev Block.Inv (p : Config.Params) (b : Block) : Prop :=
  b.coco.idx.toNat ≤ 130 ∧ b.kfs.idx.toNat ≤ 67 ∧ b.seq.Inv p
    ∧ b.coco.reps.toNat ≤ 511 ∧ b.kfs.reps.toNat ≤ 511
    ∧ b.coco.cfg.Legal ∧ b.kfs.cfg.Legal ∧ b.tx.Legal ∧ b.errCause.toNat ≤ 8

/-- The invariant of a state between cycles. -/
abbrev State.Inv (s : State) : Prop := s.blk.Inv s.params

/-! ## States a host cannot tell apart (R54, R240) -/

/-- Two COCO decoders equal but for buffer entries at or above the write index. -/
def CocoState.Agree (a b : CocoState) : Prop :=
  { a with buf := b.buf } = b ∧ ∀ i, i < a.idx.toNat → bufRead a.buf i = bufRead b.buf i

/-- Two KFS decoders equal but for buffer entries at or above the write index. -/
def KfsState.Agree (a b : KfsState) : Prop :=
  { a with buf := b.buf } = b ∧ ∀ i, i < a.idx.toNat → bufRead a.buf i = bufRead b.buf i

/-- Two states equal but for buffer entries at or above the write indices, and for what is left of the
cycle before (`pre` and the wires). -/
def State.Agree (s t : State) : Prop :=
  s.blk.coco.Agree t.blk.coco ∧ s.blk.kfs.Agree t.blk.kfs
    ∧ { s.blk with coco := t.blk.coco, kfs := t.blk.kfs } = t.blk
    ∧ s.busRdata = t.busRdata ∧ s.inputs = t.inputs ∧ s.params = t.params ∧ s.freeCtr = t.freeCtr

/-- Everything a host and the integrator can see of a state: every register read (R180), the value on
`bus_rdata`, the message ports (R24, R25), `irq` (R215) and the output lines (R168). -/
def State.SameOutside (s t : State) : Prop :=
  (∀ a, pack s.blk a = pack t.blk a) ∧ s.busRdata = t.busRdata
    ∧ s.blk.cocoMsgValid = t.blk.cocoMsgValid ∧ s.blk.cocoMsgTs = t.blk.cocoMsgTs
    ∧ s.blk.cocoMsgCode = t.blk.cocoMsgCode
    ∧ s.blk.kfsMsgValid = t.blk.kfsMsgValid ∧ s.blk.kfsMsgTs = t.blk.kfsMsgTs
    ∧ s.blk.kfsMsgId = t.blk.kfsMsgId ∧ s.blk.kfsMsgLen = t.blk.kfsMsgLen
    ∧ s.blk.irq = t.blk.irq ∧ (∀ p, s.blk.txOut p = t.blk.txOut p)

/-! ## Registers as a host reads them -/

/-- R30's "reset value" column; every address it does not list reads 0. -/
def resetReadValues : List (Addr × Word) :=
  [ (0x10, 0x0000000000000104), (0x11, 0x0000000000002828), (0x12, 0x0000000000000001),
    (0x14, 0x0000016C0000009C), (0x15, 0x000005B000000270), (0x16, 0x00000E3800000618),
    (0x17, 0x000038E000001860),
    (0x30, 0x000000000000015E), (0x31, 0x0000000000001414), (0x32, 0x0000000000000002),
    (0x34, 0x000001A400000118), (0x35, 0x000004EC00000348), (0x36, 0x000032DC000021E8),
    (0x51, 0x0000000000000104), (0x52, 0x000000000000015E), (0x54, 0x0000001800000000) ]

/-- The bits of each mapped register that the field tables of R31 to R52 do NOT mark RES0. An address
that is not listed is unmapped. -/
def fieldBits : List (Addr × Word) :=
  [ (0x00, 0x11F), (0x01, 0x1F), (0x02, 0xFF),
    (0x10, 0xFFFF), (0x11, 0xFFFF), (0x12, 0xFF), (0x13, 0xFFFF),
    (0x14, 0x00FFFFFF00FFFFFF), (0x15, 0x00FFFFFF00FFFFFF), (0x16, 0x00FFFFFF00FFFFFF),
    (0x17, 0x00FFFFFF00FFFFFF),
    (0x18, 0xFF), (0x19, 0xFFFFFFFFFFFFFFFF), (0x1A, 0xFFFFFFFFFFFFFFFF), (0x1B, 0xFFFFFFFF),
    (0x1C, 0x1FF), (0x1D, 0xFFFFFFFFFFFFFFFF), (0x1E, 0xFFFFFFFF), (0x1F, 0xFFFFFFFFFFFFFFFF),
    (0x20, 0xFFFFFFFF),
    (0x30, 0xFFFF), (0x31, 0xFFFF), (0x32, 0xFF), (0x33, 0xFFFF),
    (0x34, 0x00FFFFFF00FFFFFF), (0x35, 0x00FFFFFF00FFFFFF), (0x36, 0x00FFFFFF00FFFFFF),
    (0x38, 0x17F), (0x39, 0xFFFFFFFFFFFFFFFF), (0x3A, 0xFFFFFFFFFFFFFFFF), (0x3B, 0x1F00FFFFFF),
    (0x3C, 0x1FF), (0x3D, 0xFFFFFFFFFFFFFFFF), (0x3F, 0xFFFFFFFFFFFFFFFF), (0x40, 0x1F00FFFFFF),
    (0x50, 0x1F2), (0x51, 0xFFFF), (0x52, 0xFFFF), (0x53, 0xFFFFFFFF), (0x54, 0x1F00FFFFFF),
    (0x55, 0xF30FFF), (0x56, 0xFFFFFFFFFFFFFFFF), (0x57, 0xFFFF001FFFFFFFFF) ]

/-! ## The events of a cycle -/

/-- The `clr.*` wires of a cycle (R69): the clear mask of its WR STATUS, if that is its bus operation. -/
def clearWires (c : CycleIn) : Sticky :=
  match decodeBus c with
  | .wrStatus d => if c.rst then .none else dClear d
  | _ => .none

/-- The state with CfgError(`code`) raised (R212): CFG_ERR and its wire set, ERR_CAUSE written, nothing
else touched. -/
def State.cfgRejected (s : State) (code : BitVec 8) : State :=
  { s with
    set := { s.set with cfgErr := true }
    blk := { s.blk with st := { s.blk.st with cfgErr := true }, errCause := code } }

/-- The state with TxError(`code`) raised (R212). -/
def State.txRefused (s : State) (code : BitVec 8) : State :=
  { s with
    set := { s.set with txErr := true }
    blk := { s.blk with st := { s.blk.st with txErr := true }, errCause := code } }

/-! ## A filter on its own (R157): the candidates it is offered, one a cycle -/

/-- Offer the COCO filter the same code at each of the timestamps; the last state and, in order, whether
each candidate was accepted. -/
def cocoOffers (code : BitVec 32) : CocoState → List Word → CocoState × List Bool
  | c, [] => (c, [])
  | c, t :: ts =>
    let r := cocoFilter c c code t
    let rest := cocoOffers code r.1 ts
    (rest.1, r.2 :: rest.2)

/-- Offer the KFS filter the same code and length at each of the timestamps. -/
def kfsOffers (code : BitVec 24) (len : BitVec 5) : KfsState → List Word → KfsState × List Bool
  | k, [] => (k, [])
  | k, t :: ts =>
    let r := kfsFilter k k code len t
    let rest := kfsOffers code len r.1 ts
    (rest.1, r.2 :: rest.2)

end Sys2Proof.Machine
end

