-- ==== Sys2Proof/Certificates/Slice0/Obligations.lean ====
section
/-! DEFINITION. What is claimed of the LPD433 OOK core, one proposition per claim. `cycle c s` is one
clock cycle of the state `s` with the inputs `c`, and `step s` is `cycle s.nextInput s`; `exec i s` is one
operation of a cycle: it reads `S` (`s.pre`) and writes `S'` (`s.blk`). -/

open Sys2Proof Sys2Proof.Machine

/-! ## Encoding -/

/-- R85, R86, R91: decoding what `encode` writes gives the instruction back, for every well-formed
instruction alone and for every combination of slots of one header; only TX.TICK has no encoding. -/
def Obligations.DecodeEncodeAgree : Prop :=
  (∀ (i : Instr) (c : CycleIn), i.WellFormed = true → encode i = some c → c.row = i)
    ∧ (∀ i : Instr, encode i = none ↔ i = .txTick)
    ∧ (∀ (a b : Option Word) (i : Instr), i.WellFormed = true → i.slot = .bus →
        decodeHeader (encodeAll ((a.map Instr.edgeCoco).toList ++ (b.map Instr.edgeKfs).toList ++ [i]))
          = (a.map Instr.edgeCoco).toList ++ (b.map Instr.edgeKfs).toList ++ [i])
    ∧ decodeHeader (encodeAll [.reset]) = [.reset]

/-- R80, R85, R86, R87: every header decodes to well-formed operations, and encoding those again gives
every bit of the header and of the operands that is read. -/
def Obligations.EncodeDecodeAgree : Prop :=
  ∀ c : CycleIn, encodeAll (decodeHeader c) = c.normal
    ∧ ∀ i ∈ decodeHeader c, i.WellFormed = true ∧ i.hasEncoding = true

/-- R94's table of header encodings, each row in both directions: what its line encodes to, and what the
header with its operands decodes to (a line without a bus slot has OP = 00, a NOP of address 0, R91). The
headers that need no operand other than zeros are also decoded as 16-bit words (assumption log 8). -/
def Obligations.HeadersOfCommonLines : Prop :=
  (∀ t v : Word,
    encodeAll [.reset] = ⟨0x1000, 0, 0, 0⟩ ∧ encodeAll [.nop 0] = ⟨0x0000, 0, 0, 0⟩
    ∧ encodeAll [.edgeCoco t] = ⟨0x0400, t, 0, 0⟩ ∧ encodeAll [.edgeKfs t] = ⟨0x0800, 0, t, 0⟩
    ∧ encodeAll [.edgeCoco t, .edgeKfs t] = ⟨0x0C00, t, t, 0⟩
    ∧ encodeAll [.rd 0x00] = ⟨0x0200, 0, 0, 0⟩ ∧ encodeAll [.wrStatus v] = ⟨0x0100, 0, 0, v⟩
    ∧ encodeAll [.wrCocoTol v] = ⟨0x0111, 0, 0, v⟩ ∧ encodeAll [.wrTxCtrl v] = ⟨0x0150, 0, 0, v⟩
    ∧ encodeAll [.wrTxKfsMsg v] = ⟨0x0154, 0, 0, v⟩ ∧ encodeAll [.rd 0x20] = ⟨0x0220, 0, 0, 0⟩)
    ∧ (∀ t v : Word,
      decodeHeader ⟨0x1000, 0, 0, 0⟩ = [.reset] ∧ decodeHeader ⟨0x0000, 0, 0, 0⟩ = [.nop 0]
      ∧ decodeHeader ⟨0x0400, t, 0, 0⟩ = [.edgeCoco t, .nop 0]
      ∧ decodeHeader ⟨0x0800, 0, t, 0⟩ = [.edgeKfs t, .nop 0]
      ∧ decodeHeader ⟨0x0C00, t, t, 0⟩ = [.edgeCoco t, .edgeKfs t, .nop 0]
      ∧ decodeHeader ⟨0x0200, 0, 0, 0⟩ = [.rd 0x00] ∧ decodeHeader ⟨0x0100, 0, 0, v⟩ = [.wrStatus v]
      ∧ decodeHeader ⟨0x0111, 0, 0, v⟩ = [.wrCocoTol v] ∧ decodeHeader ⟨0x0150, 0, 0, v⟩ = [.wrTxCtrl v]
      ∧ decodeHeader ⟨0x0154, 0, 0, v⟩ = [.wrTxKfsMsg v] ∧ decodeHeader ⟨0x0220, 0, 0, 0⟩ = [.rd 0x20])
    ∧ decodeTableWord 16 0x1000 = some .reset ∧ decodeTableWord 16 0x0000 = some (.nop 0)
    ∧ decodeTableWord 16 0x0400 = some (.edgeCoco 0) ∧ decodeTableWord 16 0x0800 = some (.edgeKfs 0)
    ∧ decodeTableWord 16 0x0200 = some (.rd 0x00) ∧ decodeTableWord 16 0x0100 = some (.wrStatus 0)
    ∧ decodeTableWord 16 0x0111 = some (.wrCocoTol 0) ∧ decodeTableWord 16 0x0150 = some (.wrTxCtrl 0)
    ∧ decodeTableWord 16 0x0154 = some (.wrTxKfsMsg 0) ∧ decodeTableWord 16 0x0220 = some (.rd 0x20)

/-! ## The cycle -/

/-- R66, R85, R86: a step runs the operations that its inputs select; where they select one, it runs `exec`
of that one. The operations of a cycle are those of its header (`decodeHeader`), and, while the sequencer is
busy and R = 0, TX.TICK before the bus operation. Around `exec` stand: S is what the block holds, the strobes start at 0, no event has happened,
`bus_rdata` starts at 0, and the inputs are consumed. -/
def Obligations.StepRunsTheDecodedOperations : Prop :=
  ∀ s : State,
    step s = runOps (decodeCycle s.blk.seq.busy s.nextInput) s.openCycle
    ∧ (∀ i, decodeCycle s.blk.seq.busy s.nextInput = [i] → step s = exec i s.openCycle)
    ∧ (∀ i : Instr, i.WellFormed = true → encode i = some s.nextInput → s.blk.seq.busy = false →
        step s = exec i s.openCycle)
    ∧ (∀ c, decodeCycle false c = decodeHeader c)
    ∧ (∀ c, c.rst = true → decodeCycle true c = [.reset] ∧ decodeHeader c = [.reset])
    ∧ (∀ c, c.rst = false → ∃ edges, decodeHeader c = edges ++ [decodeBus c]
        ∧ decodeCycle true c = edges ++ [.txTick, decodeBus c])
    ∧ (∀ nbits w, (s.withFetchWord nbits w).nextInput = CycleIn.ofNat (w % 2 ^ nbits))
    ∧ s.openCycle.pre = s.blk
    ∧ s.openCycle.blk = { s.blk with
        coco := { s.blk.coco with strobe := false }, kfs := { s.blk.kfs with strobe := false } }
    ∧ s.openCycle.set = .none ∧ s.openCycle.clr = .none ∧ s.openCycle.busRdata = 0
    ∧ s.openCycle.inputs = s.inputs.tail ∧ s.openCycle.params = s.params

/-- R87, R210: no input, header or register value stops the block; every cycle has a next state. -/
def Obligations.EveryCycleCompletes : Prop :=
  ∀ s : State, ∃ t, step s = .next t ∧ t.pre = s.blk ∧ t.inputs = s.inputs.tail ∧ t.params = s.params

/-- R66: "the steps commute, and the result does not depend on the order in which they are listed". -/
def Obligations.SlotsCommute : Prop :=
  ∀ (i j : Instr) (s : State), i.slot ≠ j.slot → i.slot ≠ .reset → j.slot ≠ .reset →
    runOps [i, j] s = runOps [j, i] s

/-- R240, R241, R242, R86: in a cycle with R = 1 the block takes its reset state whatever else is
presented, `bus_rdata` is 0 and every output line is low from the next cycle on. -/
def Obligations.ResetCycleIgnoresTheRest : Prop :=
  ∀ (s : State) (c e : CycleIn), c.rst = true → e.rst = true →
    cycle c s = cycle e s
    ∧ ∃ t cb kb, cycle c s = .next t ∧ t.blk = Block.reset cb kb ∧ t.busRdata = 0
        ∧ (∀ p, t.blk.txOut p = false) ∧ t.blk.irq = false ∧ t.params = s.params

/-- R67, R181: a read returns the value its register had at the start of the cycle, whatever edges, tick
or accept the same cycle has; `bus_rdata` is 0 in every other cycle, a reset cycle among them. -/
def Obligations.ReadDataPort : Prop :=
  ∀ (s : State) (c : CycleIn), ∃ t, cycle c s = .next t
    ∧ (c.rst = false → c.op = 2 → t.busRdata = pack s.blk c.addr)
    ∧ (c.rst = true ∨ c.op ≠ 2 → t.busRdata = 0)

/-- R68: an edge of the cycle of a configuration write classifies with the configuration before it: all
that the cycle does to a decoder but for its configuration is what it does with no bus operation. -/
def Obligations.EdgesSeeTheConfigurationBeforeAWrite : Prop :=
  ∀ (s t u : State) (c e : CycleIn), c.rst = false → e.rst = false → e.op = 0 →
    c.cocoValid = e.cocoValid → c.kfsValid = e.kfsValid → c.t = e.t → c.u = e.u →
    cycle c s = .next t → cycle e s = .next u →
      t.blk.coco = { u.blk.coco with cfg := t.blk.coco.cfg }
      ∧ t.blk.kfs = { u.blk.kfs with cfg := t.blk.kfs.cfg }
      ∧ u.blk.coco.cfg = s.blk.coco.cfg ∧ u.blk.kfs.cfg = s.blk.kfs.cfg

/-- R69, R29, R216: each sticky bit becomes `(S.st.b and not clr.b) or set.b`, and `set.b` is 1 exactly
when the event of `b` happened: an accept, a completion; so an event wins over a clear of its cycle. -/
def Obligations.StickyBitsMerge : Prop :=
  ∀ (s t : State) (c : CycleIn), c.rst = false → cycle c s = .next t →
    t.blk.st.cocoMsg = ((s.blk.st.cocoMsg && !(clearWires c).cocoMsg) || t.set.cocoMsg)
    ∧ t.blk.st.kfsMsg = ((s.blk.st.kfsMsg && !(clearWires c).kfsMsg) || t.set.kfsMsg)
    ∧ t.blk.st.cfgErr = ((s.blk.st.cfgErr && !(clearWires c).cfgErr) || t.set.cfgErr)
    ∧ t.blk.st.txErr = ((s.blk.st.txErr && !(clearWires c).txErr) || t.set.txErr)
    ∧ t.blk.st.txDone = ((s.blk.st.txDone && !(clearWires c).txDone) || t.set.txDone)
    ∧ t.set.cocoMsg = t.blk.coco.strobe ∧ t.set.kfsMsg = t.blk.kfs.strobe
    ∧ t.set.txDone = (s.blk.seq.busy && !t.blk.seq.busy)

/-- R156, R154: a message strobe is 1 only in the cycle after an edge of its own port that accepted, and
then the message registers and the sticky bit show the message. -/
def Obligations.StrobesMarkAccepts : Prop :=
  ∀ (s t : State) (c : CycleIn), cycle c s = .next t →
    (t.blk.coco.strobe = true → c.rst = false ∧ c.cocoValid = true ∧ t.blk.st.cocoMsg = true
      ∧ t.blk.coco.msgTs = t.blk.coco.lastHit ∧ t.blk.coco.reps = 0
      ∧ t.blk.coco.msgCode = s.blk.coco.prevCode)
    ∧ (t.blk.kfs.strobe = true → c.rst = false ∧ c.kfsValid = true ∧ t.blk.st.kfsMsg = true
      ∧ t.blk.kfs.msgTs = t.blk.kfs.lastHit ∧ t.blk.kfs.reps = 0
      ∧ t.blk.kfs.msgId = s.blk.kfs.prevCode ∧ t.blk.kfs.msgLen = s.blk.kfs.prevLen)

/-- R76, R224: "Neither decoder ever reads the other's timestamps or state": what a cycle leaves in a
decoder depends on that decoder, its own edge port and the bus operation alone. -/
def Obligations.DecodersAreIndependent : Prop :=
  ∀ (s t s' t' : State) (c e : CycleIn), c.rst = e.rst → decodeBus c = decodeBus e →
    s.freeCtr = t.freeCtr → cycle c s = .next s' → cycle e t = .next t' →
      (s.blk.coco = t.blk.coco → c.cocoValid = e.cocoValid → c.t = e.t → s'.blk.coco = t'.blk.coco)
      ∧ (s.blk.kfs = t.blk.kfs → c.kfsValid = e.kfsValid → c.u = e.u → s'.blk.kfs = t'.blk.kfs)

/-- R169, R170: while a transmission runs, no input but reset changes what the sequencer does next, and
it stops being busy only by completing, which sets TX_DONE. -/
def Obligations.RunningTransmissionIsUndisturbed : Prop :=
  ∀ (s t u : State) (c e : CycleIn), s.blk.seq.busy = true → c.rst = false → e.rst = false →
    cycle c s = .next t → cycle e s = .next u →
      t.blk.seq = u.blk.seq ∧ (t.blk.seq.busy = false → t.blk.st.txDone = true)

/-- R165, R210: an idle sequencer becomes busy only by a WR TX_CTRL with START = 1 and a pin that exists,
and it then holds the message, length and unit that the state before the cycle held. -/
def Obligations.OnlyAStartMakesBusy : Prop :=
  ∀ (s t : State) (c : CycleIn), s.blk.seq.busy = false → cycle c s = .next t →
    t.blk.seq.busy = true →
      c.rst = false ∧ c.op = 1 ∧ c.addr = 0x50 ∧ c.d.getLsbD 0 = true
      ∧ 1 ≤ t.blk.seq.pin.toNat ∧ t.blk.seq.pin.toNat ≤ s.params.nTxPins
      ∧ t.blk.seq.idx = 0 ∧ t.blk.seq.rep = 0
      ∧ (t.blk.seq.proto = .coco → t.blk.seq.msg = s.blk.tx.cocoMsg ∧ t.blk.seq.unit = s.blk.tx.cocoUnit)
      ∧ (t.blk.seq.proto = .kfs → t.blk.seq.msg = s.blk.tx.kfsId.zeroExtend 32
          ∧ t.blk.seq.len = s.blk.tx.kfsLen ∧ t.blk.seq.unit = s.blk.tx.kfsUnit)

/-- R210, R211, R218: an error event happens only in a cycle whose bus operation is a write to a mapped
writable register; ERR_CAUSE is written by the error events and reset alone, with one of the eight codes
of the event's class, and a cycle has at most one error event (R216). -/
def Obligations.ErrorsComeFromWritesAlone : Prop :=
  ∀ (s t : State) (c : CycleIn), c.rst = false → cycle c s = .next t →
    (t.set.cfgErr = true ∨ t.set.txErr = true → c.op = 1 ∧ c.addr ∈ writableAddrs)
    ∧ (t.set.cfgErr = true → 1 ≤ t.blk.errCause.toNat ∧ t.blk.errCause.toNat ≤ 6)
    ∧ (t.set.txErr = true → c.addr = 0x50 ∧ (t.blk.errCause = 0x07 ∨ t.blk.errCause = 0x08))
    ∧ (t.set.cfgErr = false → t.set.txErr = false → t.blk.errCause = s.blk.errCause)

/-- R244: "A configuration write never resets decoder dynamic state": with no edge on a port, a cycle
changes nothing of its decoder but the strobe and, by a write, the configuration. -/
def Obligations.WritesKeepDecoderState : Prop :=
  ∀ (s t : State) (c : CycleIn), c.rst = false → cycle c s = .next t →
    (c.cocoValid = false → t.blk.coco = { s.blk.coco with strobe := false, cfg := t.blk.coco.cfg })
    ∧ (c.kfsValid = false → t.blk.kfs = { s.blk.kfs with strobe := false, cfg := t.blk.kfs.cfg })

/-! ## Reset, reads and no-ops -/

/-- R240, R56: RESET completes, with every register at the value R56 gives it. -/
def Obligations.ResetGivesTheResetState : Prop :=
  ∀ s : State, ∃ t cb kb, exec .reset s = .next t ∧ t.blk.coco.buf = cb ∧ t.blk.kfs.buf = kb
    ∧ t.blk.coco = ⟨⟨260, 40, 40, 1, 0⟩, 0, 0, 0, cb, 0, 0, 0, 0, 0, 0, false⟩
    ∧ t.blk.kfs = ⟨⟨350, 20, 20, 2, 0⟩, false, 0, 0, 0, kb, 0, 0, 0, 0, 0, 0, 0, false⟩
    ∧ t.blk.tx = ⟨.coco, 0, 260, 350, 0, 0, 24⟩ ∧ t.blk.seq = ⟨false, .coco, 0, 0, 0, 0, 0, 0, 0⟩
    ∧ t.blk.st = ⟨false, false, false, false, false⟩ ∧ t.blk.irqEn = 0 ∧ t.blk.errCause = 0
    ∧ t.busRdata = 0 ∧ t.inputs = s.inputs ∧ t.params = s.params

/-- R30: after reset every register of the map reads its listed reset value, and every other address 0,
whatever the frame buffers hold. -/
def Obligations.ResetRegisterValues : Prop :=
  ∀ (cb : Vector Dur Config.cocoBufDepth) (kb : Vector Dur Config.kfsBufDepth) (a : Addr),
    pack (Block.reset cb kb) a = (resetReadValues.lookup a).getD 0

/-- R180, R64: RD completes at every address; it drives the register's word on `bus_rdata` and changes
nothing else. -/
def Obligations.ReadDrivesTheRegister : Prop :=
  ∀ (a : Addr) (s : State), exec (.rd a) s = .next { s with busRdata := pack s.pre a }

/-- R180's table of packed values, as numbers (R31 to R52). -/
def Obligations.RegisterReadsPackTheFields : Prop :=
  ∀ S : Block,
    (pack S 0x00).toNat = S.st.cocoMsg.toNat + 2 * S.st.kfsMsg.toNat + 4 * S.st.cfgErr.toNat
      + 8 * S.st.txErr.toNat + 16 * S.st.txDone.toNat + 256 * S.seq.busy.toNat
    ∧ (pack S 0x01).toNat = S.irqEn.toNat ∧ (pack S 0x02).toNat = S.errCause.toNat
    ∧ (pack S 0x10).toNat = S.coco.cfg.nom.toNat
    ∧ (pack S 0x11).toNat = S.coco.cfg.neg.toNat * 2 ^ 8 + S.coco.cfg.pos.toNat
    ∧ (pack S 0x12).toNat = S.coco.cfg.rep.toNat ∧ (pack S 0x13).toNat = S.coco.cfg.ref.toNat
    ∧ (pack S 0x14).toNat = (win S.coco.cfg 1).max * 2 ^ 32 + (win S.coco.cfg 1).min
    ∧ (pack S 0x15).toNat = (win S.coco.cfg 4).max * 2 ^ 32 + (win S.coco.cfg 4).min
    ∧ (pack S 0x16).toNat = (win S.coco.cfg 10).max * 2 ^ 32 + (win S.coco.cfg 10).min
    ∧ (pack S 0x17).toNat = (win S.coco.cfg 40).max * 2 ^ 32 + (win S.coco.cfg 40).min
    ∧ (pack S 0x18).toNat = S.coco.idx.toNat ∧ pack S 0x19 = S.coco.lastTs
    ∧ pack S 0x1A = S.coco.origin ∧ (pack S 0x1B).toNat = S.coco.prevCode.toNat
    ∧ (pack S 0x1C).toNat = S.coco.reps.toNat ∧ pack S 0x1D = S.coco.lastHit
    ∧ (pack S 0x1E).toNat = S.coco.eff.toNat ∧ pack S 0x1F = S.coco.msgTs
    ∧ (pack S 0x20).toNat = S.coco.msgCode.toNat
    ∧ (pack S 0x30).toNat = S.kfs.cfg.nom.toNat
    ∧ (pack S 0x31).toNat = S.kfs.cfg.neg.toNat * 2 ^ 8 + S.kfs.cfg.pos.toNat
    ∧ (pack S 0x32).toNat = S.kfs.cfg.rep.toNat ∧ (pack S 0x33).toNat = S.kfs.cfg.ref.toNat
    ∧ (pack S 0x34).toNat = (win S.kfs.cfg 1).max * 2 ^ 32 + (win S.kfs.cfg 1).min
    ∧ (pack S 0x35).toNat = (win S.kfs.cfg 3).max * 2 ^ 32 + (win S.kfs.cfg 3).min
    ∧ (pack S 0x36).toNat = (win S.kfs.cfg 31).max * 2 ^ 32 + (win S.kfs.cfg 31).min
    ∧ (pack S 0x38).toNat = S.kfs.seen.toNat * 2 ^ 8 + S.kfs.idx.toNat
    ∧ pack S 0x39 = S.kfs.lastTs ∧ pack S 0x3A = S.kfs.origin
    ∧ (pack S 0x3B).toNat = S.kfs.prevLen.toNat * 2 ^ 32 + S.kfs.prevCode.toNat
    ∧ (pack S 0x3C).toNat = S.kfs.reps.toNat ∧ pack S 0x3D = S.kfs.lastHit
    ∧ pack S 0x3F = S.kfs.msgTs
    ∧ (pack S 0x40).toNat = S.kfs.msgLen.toNat * 2 ^ 32 + S.kfs.msgId.toNat
    ∧ (pack S 0x50).toNat = S.seq.busy.toNat * 2 ^ 8 + S.tx.pin.toNat * 2 ^ 4 + S.tx.proto.bit.toNat * 2
    ∧ (pack S 0x51).toNat = S.tx.cocoUnit.toNat ∧ (pack S 0x52).toNat = S.tx.kfsUnit.toNat
    ∧ (pack S 0x53).toNat = S.tx.cocoMsg.toNat
    ∧ (pack S 0x54).toNat = S.tx.kfsLen.toNat * 2 ^ 32 + S.tx.kfsId.toNat
    ∧ (pack S 0x55).toNat = S.seq.pin.toNat * 2 ^ 20 + S.seq.proto.bit.toNat * 2 ^ 17
      + (S.seq.busy && S.seq.idx.toNat % 2 == 0).toNat * 2 ^ 16 + S.seq.rep.toNat * 2 ^ 8 + S.seq.idx.toNat
    ∧ pack S 0x56 = S.seq.cnt
    ∧ (pack S 0x57).toNat = S.seq.unit.toNat * 2 ^ 48 + S.seq.len.toNat * 2 ^ 32 + S.seq.msg.toNat

/-- R55: every bit marked RES0 and every unmapped address reads as 0. -/
def Obligations.ReservedBitsReadZero : Prop :=
  ∀ (S : Block) (a : Addr), pack S a &&& ~~~((fieldBits.lookup a).getD 0) = 0

/-- R196, R197: NOP, the reserved operation and a write to a read-only or unmapped address complete and
change nothing. -/
def Obligations.IgnoredOperationsChangeNothing : Prop :=
  ∀ (a : Addr) (d : Word) (s : State),
    exec (.nop a) s = .next s ∧ exec (.reserved a) s = .next s ∧ exec (.wrIgnored a d) s = .next s

/-! ## Writes -/

/-- R182, R69: WR STATUS clears the sticky bits written as 1, unless the event of the same cycle set
them, and leaves everything else, ERR_CAUSE among it (R218). -/
def Obligations.StatusWriteClears : Prop :=
  ∀ (d : Word) (s : State), encode (.wrStatus d) = some ⟨0x0100, 0, 0, d⟩
    ∧ ∃ t, exec (.wrStatus d) s = .next t
    ∧ t.blk.st.cocoMsg = ((s.pre.st.cocoMsg && !d.getLsbD 0) || s.set.cocoMsg)
    ∧ t.blk.st.kfsMsg = ((s.pre.st.kfsMsg && !d.getLsbD 1) || s.set.kfsMsg)
    ∧ t.blk.st.cfgErr = ((s.pre.st.cfgErr && !d.getLsbD 2) || s.set.cfgErr)
    ∧ t.blk.st.txErr = ((s.pre.st.txErr && !d.getLsbD 3) || s.set.txErr)
    ∧ t.blk.st.txDone = ((s.pre.st.txDone && !d.getLsbD 4) || s.set.txDone)
    ∧ { t with clr := s.clr, blk := { t.blk with st := s.blk.st } } = s

/-- R183: WR IRQ_EN writes D[4:0], ignores every other bit, and changes nothing else. -/
def Obligations.IrqEnableWrite : Prop :=
  ∀ (d : Word) (s : State),
    exec (.wrIrqEn d) s = .next { s with blk := { s.blk with irqEn := BitVec.ofNat 5 (d.toNat % 32) } }

/-- R184, R188: a NOMINAL write, at its encoding, of 1..65535 sets the nominal duration and nothing else;
any other value raises NOMINAL_RANGE and leaves the register. -/
def Obligations.NominalWrites : Prop :=
  ∀ (d : Word) (s : State),
    encode (.wrCocoNominal d) = some ⟨0x0110, 0, 0, d⟩ ∧ encode (.wrKfsNominal d) = some ⟨0x0130, 0, 0, d⟩
    ∧ (1 ≤ d.toNat ∧ d.toNat < 2 ^ 16 →
      exec (.wrCocoNominal d) s = .next { s with blk := { s.blk with coco := { s.blk.coco with
        cfg := { s.blk.coco.cfg with nom := BitVec.ofNat 16 d.toNat } } } }
      ∧ exec (.wrKfsNominal d) s = .next { s with blk := { s.blk with kfs := { s.blk.kfs with
        cfg := { s.blk.kfs.cfg with nom := BitVec.ofNat 16 d.toNat } } } })
    ∧ (d.toNat = 0 ∨ 2 ^ 16 ≤ d.toNat →
      exec (.wrCocoNominal d) s = .next (s.cfgRejected 0x02)
      ∧ exec (.wrKfsNominal d) s = .next (s.cfgRejected 0x02))

/-- R185, R189: a TOL write with POS and NEG in 1..100 and D[63:16] = 0 sets both; any other raises
TOL_RANGE and leaves both. -/
def Obligations.ToleranceWrites : Prop :=
  ∀ (d : Word) (s : State) (p n : Nat), d.toNat % 2 ^ 8 = p → d.toNat / 2 ^ 8 % 2 ^ 8 = n →
    encode (.wrCocoTol d) = some ⟨0x0111, 0, 0, d⟩ ∧ encode (.wrKfsTol d) = some ⟨0x0131, 0, 0, d⟩
    ∧ (d.toNat < 2 ^ 16 ∧ 1 ≤ p ∧ p ≤ 100 ∧ 1 ≤ n ∧ n ≤ 100 →
      exec (.wrCocoTol d) s = .next { s with blk := { s.blk with coco := { s.blk.coco with
        cfg := { s.blk.coco.cfg with pos := BitVec.ofNat 8 p, neg := BitVec.ofNat 8 n } } } }
      ∧ exec (.wrKfsTol d) s = .next { s with blk := { s.blk with kfs := { s.blk.kfs with
        cfg := { s.blk.kfs.cfg with pos := BitVec.ofNat 8 p, neg := BitVec.ofNat 8 n } } } })
    ∧ (2 ^ 16 ≤ d.toNat ∨ p = 0 ∨ 100 < p ∨ n = 0 ∨ 100 < n →
      exec (.wrCocoTol d) s = .next (s.cfgRejected 0x01)
      ∧ exec (.wrKfsTol d) s = .next (s.cfgRejected 0x01))

/-- R186, R190: a REPEAT write below 256 sets repeatCount; any other raises REPEAT_RANGE. -/
def Obligations.RepeatWrites : Prop :=
  ∀ (d : Word) (s : State),
    encode (.wrCocoRepeat d) = some ⟨0x0112, 0, 0, d⟩ ∧ encode (.wrKfsRepeat d) = some ⟨0x0132, 0, 0, d⟩
    ∧ (d.toNat < 2 ^ 8 →
      exec (.wrCocoRepeat d) s = .next { s with blk := { s.blk with coco := { s.blk.coco with
        cfg := { s.blk.coco.cfg with rep := BitVec.ofNat 8 d.toNat } } } }
      ∧ exec (.wrKfsRepeat d) s = .next { s with blk := { s.blk with kfs := { s.blk.kfs with
        cfg := { s.blk.kfs.cfg with rep := BitVec.ofNat 8 d.toNat } } } })
    ∧ (2 ^ 8 ≤ d.toNat →
      exec (.wrCocoRepeat d) s = .next (s.cfgRejected 0x03)
      ∧ exec (.wrKfsRepeat d) s = .next (s.cfgRejected 0x03))

/-- R187, R191: a REFRACT write below 65536 sets the refractory period; any other raises REFRACT_RANGE. -/
def Obligations.RefractoryWrites : Prop :=
  ∀ (d : Word) (s : State),
    encode (.wrCocoRefract d) = some ⟨0x0113, 0, 0, d⟩ ∧ encode (.wrKfsRefract d) = some ⟨0x0133, 0, 0, d⟩
    ∧ (d.toNat < 2 ^ 16 →
      exec (.wrCocoRefract d) s = .next { s with blk := { s.blk with coco := { s.blk.coco with
        cfg := { s.blk.coco.cfg with ref := BitVec.ofNat 16 d.toNat } } } }
      ∧ exec (.wrKfsRefract d) s = .next { s with blk := { s.blk with kfs := { s.blk.kfs with
        cfg := { s.blk.kfs.cfg with ref := BitVec.ofNat 16 d.toNat } } } })
    ∧ (2 ^ 16 ≤ d.toNat →
      exec (.wrCocoRefract d) s = .next (s.cfgRejected 0x04)
      ∧ exec (.wrKfsRefract d) s = .next (s.cfgRejected 0x04))

/-- R192, R193: a transmit unit write of 1..65535 sets the unit; any other raises TX_UNIT_RANGE. -/
def Obligations.TransmitUnitWrites : Prop :=
  ∀ (d : Word) (s : State),
    encode (.wrTxCocoUnit d) = some ⟨0x0151, 0, 0, d⟩ ∧ encode (.wrTxKfsUnit d) = some ⟨0x0152, 0, 0, d⟩
    ∧ (1 ≤ d.toNat ∧ d.toNat < 2 ^ 16 →
      exec (.wrTxCocoUnit d) s = .next { s with blk := { s.blk with
        tx := { s.blk.tx with cocoUnit := BitVec.ofNat 16 d.toNat } } }
      ∧ exec (.wrTxKfsUnit d) s = .next { s with blk := { s.blk with
        tx := { s.blk.tx with kfsUnit := BitVec.ofNat 16 d.toNat } } })
    ∧ (d.toNat = 0 ∨ 2 ^ 16 ≤ d.toNat →
      exec (.wrTxCocoUnit d) s = .next (s.cfgRejected 0x05)
      ∧ exec (.wrTxKfsUnit d) s = .next (s.cfgRejected 0x05))

/-- R194, R195: a transmit message write with legal data sets the message; any other raises
TX_MSG_RANGE. -/
def Obligations.TransmitMessageWrites : Prop :=
  ∀ (d : Word) (s : State) (id res len : Nat),
    d.toNat % 2 ^ 24 = id → d.toNat / 2 ^ 24 % 2 ^ 8 = res → d.toNat / 2 ^ 32 = len →
    encode (.wrTxCocoMsg d) = some ⟨0x0153, 0, 0, d⟩ ∧ encode (.wrTxKfsMsg d) = some ⟨0x0154, 0, 0, d⟩
    ∧ (d.toNat < 2 ^ 32 →
      exec (.wrTxCocoMsg d) s = .next { s with blk := { s.blk with
        tx := { s.blk.tx with cocoMsg := BitVec.ofNat 32 d.toNat } } })
    ∧ (2 ^ 32 ≤ d.toNat → exec (.wrTxCocoMsg d) s = .next (s.cfgRejected 0x06))
    ∧ (res = 0 ∧ 1 ≤ len ∧ len ≤ 24 →
      exec (.wrTxKfsMsg d) s = .next { s with blk := { s.blk with
        tx := { s.blk.tx with kfsId := BitVec.ofNat 24 id, kfsLen := BitVec.ofNat 5 len } } })
    ∧ (res ≠ 0 ∨ len = 0 ∨ 24 < len → exec (.wrTxKfsMsg d) s = .next (s.cfgRejected 0x06))

/-! ## Encoder -/

/-- R165: WR TX_CTRL with START = 1 on an idle sequencer and a pin in 1..N_TX_PINS starts the
transmission: PROTO and PIN are stored, the pre-state's message, length and unit are latched, and the
first duration's cycles are counted. Nothing else changes. -/
def Obligations.TransmitStart : Prop :=
  ∀ (d : Word) (s : State) (pin : Nat), ParamsLegal s.params → d.getLsbD 0 = true →
    s.pre.seq.busy = false → d.toNat / 2 ^ 4 % 2 ^ 4 = pin → 1 ≤ pin → pin ≤ s.params.nTxPins →
    (d.getLsbD 1 = false →
      exec (.wrTxCtrl d) s = .next { s with blk := { s.blk with
        tx := { s.blk.tx with proto := .coco, pin := BitVec.ofNat 4 pin }
        seq := ⟨true, .coco, BitVec.ofNat 4 pin, s.pre.tx.cocoMsg, 0, s.pre.tx.cocoUnit, 0, 0,
          BitVec.ofNat 64 (s.pre.tx.cocoUnit.toNat * s.params.cyclesPerUs)⟩ } })
    ∧ (d.getLsbD 1 = true →
      exec (.wrTxCtrl d) s = .next { s with blk := { s.blk with
        tx := { s.blk.tx with proto := .kfs, pin := BitVec.ofNat 4 pin }
        seq := ⟨true, .kfs, BitVec.ofNat 4 pin, BitVec.ofNat 32 s.pre.tx.kfsId.toNat, s.pre.tx.kfsLen,
          s.pre.tx.kfsUnit, 0, 0,
          BitVec.ofNat 64 (s.pre.tx.kfsUnit.toNat * s.params.cyclesPerUs)⟩ } })

/-- R165, R216: WR TX_CTRL always stores PROTO and PIN. With START = 0 that is all; a start while busy
raises TX_BUSY whatever the pin; an idle start with no such pin raises TX_NO_PIN. -/
def Obligations.TransmitControlWithoutStart : Prop :=
  ∀ (d : Word) (s u : State) (pin : Nat), d.toNat / 2 ^ 4 % 2 ^ 4 = pin →
    u = { s with blk := { s.blk with tx := { s.blk.tx with
      proto := if d.getLsbD 1 then .kfs else .coco, pin := BitVec.ofNat 4 pin } } } →
    (d.getLsbD 0 = false → exec (.wrTxCtrl d) s = .next u)
    ∧ (d.getLsbD 0 = true → s.pre.seq.busy = true → exec (.wrTxCtrl d) s = .next (u.txRefused 0x08))
    ∧ (d.getLsbD 0 = true → s.pre.seq.busy = false → pin = 0 ∨ s.params.nTxPins < pin →
        exec (.wrTxCtrl d) s = .next (u.txRefused 0x07))

/-- R166, R167: TX.TICK of a busy sequencer, with `q`, L and R the sequence, its length and the repetitions
of the latched message (R162: 16 and 7), counts the duration down, then goes to the next duration, then to
the next repetition, then completes the transmission. Nothing else changes. -/
def Obligations.TickSteps : Prop :=
  ∀ (s : State) (q : List Nat) (L R : Nat), ParamsLegal s.params → s.pre.seq.busy = true →
    (s.pre.seq.proto = .coco → q = cocoSeq s.pre.seq.msg s.pre.seq.unit.toNat ∧ L = 132 ∧ R = 16) →
    (s.pre.seq.proto = .kfs → q = kfsSeq s.pre.seq.msg s.pre.seq.len.toNat s.pre.seq.unit.toNat
      ∧ L = 2 + 2 * s.pre.seq.len.toNat ∧ R = 7) →
    (1 < s.pre.seq.cnt.toNat →
      exec .txTick s = .next { s with blk := { s.blk with seq := { s.blk.seq with
        cnt := BitVec.ofNat 64 (s.pre.seq.cnt.toNat - 1) } } })
    ∧ (s.pre.seq.cnt.toNat ≤ 1 → s.pre.seq.idx.toNat + 1 < L →
      exec .txTick s = .next { s with blk := { s.blk with seq := { s.blk.seq with
        idx := BitVec.ofNat 8 (s.pre.seq.idx.toNat + 1)
        cnt := BitVec.ofNat 64 (q.getD (s.pre.seq.idx.toNat + 1) 0 * s.params.cyclesPerUs) } } })
    ∧ (s.pre.seq.cnt.toNat ≤ 1 → L ≤ s.pre.seq.idx.toNat + 1 → s.pre.seq.rep.toNat + 1 < R →
      exec .txTick s = .next { s with blk := { s.blk with seq := { s.blk.seq with
        rep := BitVec.ofNat 4 (s.pre.seq.rep.toNat + 1), idx := 0
        cnt := BitVec.ofNat 64 (s.pre.seq.unit.toNat * s.params.cyclesPerUs) } } })
    ∧ (s.pre.seq.cnt.toNat ≤ 1 → L ≤ s.pre.seq.idx.toNat + 1 → R ≤ s.pre.seq.rep.toNat + 1 →
      exec .txTick s = .next { s with
        set := { s.set with txDone := true }
        blk := { s.blk with
          seq := { s.blk.seq with busy := false, idx := 0, rep := 0, cnt := 0 }
          st := { s.blk.st with txDone := true } } })

/-- R160, R161: a COCO sequence has 132 durations that sum to 276 units, a KFS sequence of `n` bits
`2 + 2·n` that sum to `32 + 4·n` units; the i-th bit of each is sent where the rules place it. -/
def Obligations.SequenceShapes : Prop :=
  (∀ (c : BitVec 32) (u : Nat), (cocoSeq c u).length = 132 ∧ (cocoSeq c u).sum = 276 * u
    ∧ (cocoSeq c u)[0]? = some u ∧ (cocoSeq c u)[1]? = some (10 * u)
    ∧ (cocoSeq c u)[130]? = some u ∧ (cocoSeq c u)[131]? = some (40 * u)
    ∧ ∀ k, k < 32 → ((cocoSeq c u).drop (2 + 4 * k)).take 4
        = if c.getLsbD (31 - k) then [u, 4 * u, u, u] else [u, u, u, 4 * u])
  ∧ (∀ (id : BitVec 32) (n u : Nat), (kfsSeq id n u).length = 2 + 2 * n
    ∧ (kfsSeq id n u).sum = (32 + 4 * n) * u
    ∧ (kfsSeq id n u)[0]? = some u ∧ (kfsSeq id n u)[1]? = some (31 * u)
    ∧ ∀ k, k < n → ((kfsSeq id n u).drop (2 + 2 * k)).take 2
        = if id.getLsbD (n - 1 - k) then [3 * u, u] else [u, 3 * u])

/-- R171: a transmission is busy in exactly the T cycles after its start, T = 16·276·u·CYCLES_PER_US for
COCO and 7·(32+4n)·u·CYCLES_PER_US for KFS, whatever else those cycles do, and TX_DONE is 1 after it. -/
def Obligations.TransmissionLastsExactly : Prop :=
  ∀ (s : State) (T : Nat), ParamsLegal s.params → s.blk.tx.Legal → s.blk.seq.busy = false →
    s.nextInput.rst = false → s.nextInput.op = 1 → s.nextInput.addr = 0x50 →
    dStart s.nextInput.d = true →
    1 ≤ (dPin s.nextInput.d).toNat → (dPin s.nextInput.d).toNat ≤ s.params.nTxPins →
    (s.nextInput.d.getLsbD 1 = false →
      T = 16 * 276 * s.blk.tx.cocoUnit.toNat * s.params.cyclesPerUs) →
    (s.nextInput.d.getLsbD 1 = true →
      T = 7 * (32 + 4 * s.blk.tx.kfsLen.toNat) * s.blk.tx.kfsUnit.toNat * s.params.cyclesPerUs) →
    (∀ e ∈ (s.inputs.drop 1).take T, e.rst = false) →
      (∀ k, 1 ≤ k → k ≤ T → ∃ t, core.run k s = .next t ∧ t.blk.seq.busy = true)
      ∧ ∃ t, core.run (T + 1) s = .next t ∧ t.blk.seq.busy = false ∧ t.blk.st.txDone = true

/-- R163, R168: an output line is high exactly when the sequencer is busy, has latched that line's pin and
is at an even index; so at most one line is high, and none while idle. -/
def Obligations.OutputLines : Prop :=
  ∀ (b : Block) (p r : Nat),
    (b.txOut p = true ↔ b.seq.busy = true ∧ b.seq.pin.toNat = p + 1 ∧ b.seq.idx.toNat % 2 = 0)
    ∧ (b.txOut p = true → b.txOut r = true → p = r)

/-! ## COCO decoder -/

/-- R110, R131: a duration is the difference of the timestamps modulo 2^64, saturated to 2^32 − 1. So it is
the elapsed count saturated, and a timestamp that goes backward saturates, but for one that goes back by more
than 2^64 − 2^32 + 1, whose small difference R110's formula keeps (assumption log 13). -/
def Obligations.DurationsSaturate : Prop :=
  ∀ ts last : Word,
    (duration ts last).toNat = min ((ts.toNat + 2 ^ 64 - last.toNat) % 2 ^ 64) (2 ^ 32 - 1)
    ∧ (last.toNat ≤ ts.toNat → (duration ts last).toNat = min (ts.toNat - last.toNat) (2 ^ 32 - 1))
    ∧ (ts.toNat < last.toNat → last.toNat - ts.toNat ≤ 2 ^ 64 - 2 ^ 32 + 1 →
        (duration ts last).toNat = 2 ^ 32 - 1)

/-- R15, R100, R104, R105, R106: a duration is in the window of `N` units exactly when it lies between
`nom·N·(100−neg) div 100` and `nom·N·(100+pos) div 100`, both ends included; each classifier is the window of
its own multiple (R101, R102); and the bounds of a legal configuration's windows. -/
def Obligations.WindowBounds : Prop :=
  ∀ (cfg : DecoderCfg) (n : Nat), cfg.Legal →
    (∀ d : Dur, (win cfg n).has d = true ↔
      cfg.nom.toNat * n * (100 - cfg.neg.toNat) / 100 ≤ d.toNat
        ∧ d.toNat ≤ cfg.nom.toNat * n * (100 + cfg.pos.toNat) / 100)
    ∧ (∀ d : Dur, isU cfg d = (win cfg 1).has d ∧ isL cfg d = (win cfg 4).has d
      ∧ isS cfg d = (win cfg 10).has d ∧ isE cfg d = (win cfg 40).has d
      ∧ isKU cfg d = (win cfg 1).has d ∧ isKL cfg d = (win cfg 3).has d ∧ isKS cfg d = (win cfg 31).has d)
    ∧ (n ∈ [1, 3, 4, 10, 31, 40] →
      (win cfg n).max ≤ 5242800 ∧ (win cfg n).min < cfg.nom.toNat * n
      ∧ cfg.nom.toNat * n ≤ (win cfg n).max
      ∧ (cfg.nom.toNat * n < (win cfg n).max ↔ 100 ≤ cfg.nom.toNat * n * cfg.pos.toNat)
      ∧ (win cfg n).has (BitVec.ofNat 32 (2 ^ 32 - 1)) = false)

/-- R111 to R114, R75: EDGE.COCO without an Analyze run stores its duration at the start of a frame (a
start sync) or at the write index, advances the index with its wrap, and changes nothing else. -/
def Obligations.CocoEdgeStores : Prop :=
  ∀ (ts : Word) (s : State) (d : Dur) (i : Nat), d = duration ts s.pre.coco.lastTs →
    i = (if isS s.pre.coco.cfg d then 0 else s.pre.coco.idx.toNat) →
    ¬ (isE s.pre.coco.cfg d = true ∧ i = 130) →
    exec (.edgeCoco ts) s = .next { s with blk := { s.blk with coco := { s.blk.coco with
      lastTs := ts
      origin := if isS s.pre.coco.cfg d then ts else s.blk.coco.origin
      buf := s.blk.coco.buf.setIfInBounds i d
      idx := if i = 130 then 0 else BitVec.ofNat 8 (i + 1) } } }

/-- R113, R115, R118, R119: an end sync at index 130 runs Analyze on the buffer with its own duration at
130: the estimate is written, and the frame is Rejected or its code goes to the repeat filter with the
frame origin as its timestamp. -/
def Obligations.CocoEndSyncAnalyzes : Prop :=
  ∀ (ts : Word) (s : State) (d : Dur) (B : Vector Dur Config.cocoBufDepth) (stored : CocoState),
    d = duration ts s.pre.coco.lastTs → isS s.pre.coco.cfg d = false → isE s.pre.coco.cfg d = true →
    s.pre.coco.idx = 130 → B = s.pre.coco.buf.setIfInBounds 130 d →
    stored = { s.blk.coco with
      lastTs := ts, buf := s.blk.coco.buf.setIfInBounds 130 d, idx := 0
      eff := BitVec.ofNat 32 (((bufRead B 0).toNat + d.toNat) / 50) } →
    (cocoWalk s.pre.coco.cfg B = none →
      exec (.edgeCoco ts) s = .next { s with blk := { s.blk with coco := { stored with prevCode := 0 } } })
    ∧ (∀ code c, cocoWalk s.pre.coco.cfg B = some code →
        cocoFilter s.pre.coco stored code s.pre.coco.origin = (c, false) →
        exec (.edgeCoco ts) s = .next { s with blk := { s.blk with coco := c } })
    ∧ (∀ code c, cocoWalk s.pre.coco.cfg B = some code →
        cocoFilter s.pre.coco stored code s.pre.coco.origin = (c, true) →
        exec (.edgeCoco ts) s = .next { s with
          set := { s.set with cocoMsg := true }
          blk := { s.blk with coco := c, st := { s.blk.st with cocoMsg := true } } })

/-- R116, R117, R118, R121: the walk gives a code exactly when each of the 32 groups at entries 1..128 has
a bit, group k giving bit 31−k; otherwise the frame is Rejected. A group is '0' as short-short-short-long,
and else '1' as short-long-short-short. -/
def Obligations.CocoWalkReadsGroups : Prop :=
  ∀ (cfg : DecoderCfg) (B : Vector Dur Config.cocoBufDepth) (code : BitVec 32),
    (cocoWalk cfg B = some code ↔ ∀ k, k < 32 → cocoGroup cfg B k = some (code.getLsbD (31 - k)))
    ∧ (cocoWalk cfg B = none ↔ ∃ k, k < 32 ∧ cocoGroup cfg B k = none)
    ∧ (∀ k, cocoGroup cfg B k = some false ↔
        isU cfg (bufRead B (4 * k + 1)) ∧ isU cfg (bufRead B (4 * k + 2))
          ∧ isU cfg (bufRead B (4 * k + 3)) ∧ isL cfg (bufRead B (4 * k + 4)))
    ∧ (∀ k, cocoGroup cfg B k = some true ↔ cocoGroup cfg B k ≠ some false ∧
        isU cfg (bufRead B (4 * k + 1)) ∧ isL cfg (bufRead B (4 * k + 2))
          ∧ isU cfg (bufRead B (4 * k + 3)) ∧ isU cfg (bufRead B (4 * k + 4)))

/-- R75, R66: an edge changes only its own decoder's dynamic state and its own message bit: the
configuration is unchanged, and of the buffer only the entry it stores at. -/
def Obligations.EdgesWriteOnlyTheirDecoder : Prop :=
  ∀ (ts : Word) (s : State),
    (∃ t, exec (.edgeCoco ts) s = .next t
      ∧ { t with set := { t.set with cocoMsg := s.set.cocoMsg }, blk := { t.blk with
          coco := s.blk.coco, st := { t.blk.st with cocoMsg := s.blk.st.cocoMsg } } } = s
      ∧ t.blk.coco.cfg = s.blk.coco.cfg ∧ t.blk.coco.lastTs = ts
      ∧ ∀ i, i ≠ (if isS s.pre.coco.cfg (duration ts s.pre.coco.lastTs) then 0 else s.pre.coco.idx.toNat) →
          bufRead t.blk.coco.buf i = bufRead s.blk.coco.buf i)
    ∧ (∃ t, exec (.edgeKfs ts) s = .next t
      ∧ { t with set := { t.set with kfsMsg := s.set.kfsMsg }, blk := { t.blk with
          kfs := s.blk.kfs, st := { t.blk.st with kfsMsg := s.blk.st.kfsMsg } } } = s
      ∧ t.blk.kfs.cfg = s.blk.kfs.cfg ∧ t.blk.kfs.lastTs = ts
      ∧ ∀ i, (s.pre.kfs.seen = true →
            i ≠ (if isKS s.pre.kfs.cfg (duration ts s.pre.kfs.lastTs) ∨ s.pre.kfs.idx = 67 then 0
              else s.pre.kfs.idx.toNat)) →
          bufRead t.blk.kfs.buf i = bufRead s.blk.kfs.buf i)

/-! ## KFS decoder -/

/-- R130 to R135: the first KFS edge only records its timestamp. A later one that runs no Analyze stores
its duration: a sync at entry 0, with its timestamp as the new origin; any other at the write index,
wrapped from 67 to 0. -/
def Obligations.KfsEdgeStores : Prop :=
  (∀ (ts : Word) (s : State), s.pre.kfs.seen = false →
    exec (.edgeKfs ts) s = .next { s with blk := { s.blk with
      kfs := { s.blk.kfs with seen := true, lastTs := ts } } })
  ∧ ∀ (ts : Word) (s : State) (d : Dur) (i : Nat), s.pre.kfs.seen = true →
    d = duration ts s.pre.kfs.lastTs →
    i = (if isKS s.pre.kfs.cfg d then 0 else if s.pre.kfs.idx.toNat = 67 then 0 else s.pre.kfs.idx.toNat) →
    ¬ (isKS s.pre.kfs.cfg d = true ∧ 5 ≤ s.pre.kfs.idx.toNat) →
    exec (.edgeKfs ts) s = .next { s with blk := { s.blk with kfs := { s.blk.kfs with
      lastTs := ts
      origin := if isKS s.pre.kfs.cfg d then ts else s.blk.kfs.origin
      buf := s.blk.kfs.buf.setIfInBounds i d
      idx := BitVec.ofNat 7 (i + 1) } } }

/-- R133, R139 to R142: a sync with at least 5 stored durations runs Analyze on the entries before it, an
invalid candidate clears the recorded code, a valid one goes to the repeat filter with its bit length and
the old origin; in every case the sync then starts the next frame. -/
def Obligations.KfsSyncAnalyzes : Prop :=
  ∀ (ts : Word) (s : State) (d : Dur) (code : BitVec 24) (n : Nat), s.pre.kfs.seen = true →
    d = duration ts s.pre.kfs.lastTs → isKS s.pre.kfs.cfg d = true → 5 ≤ s.pre.kfs.idx.toNat →
    kfsWalk s.pre.kfs.cfg s.pre.kfs.buf s.pre.kfs.idx.toNat = (code, n) →
    (code = 0 ∨ n < 5 →
      exec (.edgeKfs ts) s = .next { s with blk := { s.blk with kfs := { s.blk.kfs with
        prevCode := 0, lastTs := ts, origin := ts, buf := s.blk.kfs.buf.setIfInBounds 0 d, idx := 1 } } })
    ∧ (∀ k, code ≠ 0 → 5 ≤ n →
        kfsFilter s.pre.kfs s.blk.kfs code (BitVec.ofNat 5 n) s.pre.kfs.origin = (k, false) →
        exec (.edgeKfs ts) s = .next { s with blk := { s.blk with kfs := { k with
          lastTs := ts, origin := ts, buf := k.buf.setIfInBounds 0 d, idx := 1 } } })
    ∧ (∀ k, code ≠ 0 → 5 ≤ n →
        kfsFilter s.pre.kfs s.blk.kfs code (BitVec.ofNat 5 n) s.pre.kfs.origin = (k, true) →
        exec (.edgeKfs ts) s = .next { s with
          set := { s.set with kfsMsg := true }
          blk := { s.blk with
            kfs := { k with lastTs := ts, origin := ts, buf := k.buf.setIfInBounds 0 d, idx := 1 }
            st := { s.blk.st with kfsMsg := true } } })

/-- R136, R137, R138, R142: the walk reads the longest run of matching pairs from entry 1, at most 24 of
them, all inside the stored entries; pair k of m gives bit m−1−k, and the code has no bit above them. -/
def Obligations.KfsWalkReadsPairs : Prop :=
  (∀ (cfg : DecoderCfg) (B : Vector Dur Config.kfsBufDepth) (j : Nat),
    (kfsPair cfg B j = some false ↔ isKU cfg (bufRead B j) ∧ isKL cfg (bufRead B (j + 1)))
    ∧ (kfsPair cfg B j = some true ↔ kfsPair cfg B j ≠ some false
        ∧ isKL cfg (bufRead B j) ∧ isKU cfg (bufRead B (j + 1))))
  ∧ ∀ (cfg : DecoderCfg) (B : Vector Dur Config.kfsBufDepth) (n m : Nat) (code : BitVec 24),
    kfsWalk cfg B n = (code, m) →
      m ≤ 24 ∧ code.toNat < 2 ^ m ∧ (m = 0 ∨ 2 * m < n)
      ∧ (∀ k, k < m → kfsPair cfg B (1 + 2 * k) = some (code.getLsbD (m - 1 - k)))
      ∧ (m = 24 ∨ n ≤ 2 * m + 2 ∨ kfsPair cfg B (1 + 2 * m) = none)

/-- R139: a walk's result is a candidate exactly when its code is not 0 and it has at least 5 bits; that
needs at least 11 stored durations. -/
def Obligations.KfsCandidateNeedsElevenEntries : Prop :=
  ∀ (cfg : DecoderCfg) (B : Vector Dur Config.kfsBufDepth) (n : Nat),
    (kfsValid (kfsWalk cfg B n) = true ↔ (kfsWalk cfg B n).1 ≠ 0 ∧ 5 ≤ (kfsWalk cfg B n).2)
    ∧ (kfsValid (kfsWalk cfg B n) = true → 11 ≤ n ∧ (kfsWalk cfg B n).2 ≤ 24)

/-! ## Repeat filter -/

/-- R150 to R155: a COCO candidate equal to the recorded code counts, and is accepted when the count
reaches `rep` outside the refractory period; a different one is recorded with the count at 0. -/
def Obligations.CocoFilterSteps : Prop :=
  ∀ (S S' : CocoState) (code : BitVec 32) (t : Word) (r : Nat), r = min (S.reps.toNat + 1) 511 →
    (code = S.prevCode → r = S.cfg.rep.toNat → S.cfg.ref.toNat * 1000000 < (t - S.lastHit).toNat →
      cocoFilter S S' code t
        = ({ S' with lastHit := t, msgTs := t, msgCode := code, strobe := true, reps := 0 }, true))
    ∧ (code = S.prevCode → r ≠ S.cfg.rep.toNat ∨ (t - S.lastHit).toNat ≤ S.cfg.ref.toNat * 1000000 →
      cocoFilter S S' code t = ({ S' with reps := BitVec.ofNat 9 r }, false))
    ∧ (code ≠ S.prevCode → cocoFilter S S' code t = ({ S' with reps := 0, prevCode := code }, false))

/-- R150 to R155 for KFS, where the bit length must match too and is recorded with the code. -/
def Obligations.KfsFilterSteps : Prop :=
  ∀ (S S' : KfsState) (code : BitVec 24) (len : BitVec 5) (t : Word) (r : Nat),
    r = min (S.reps.toNat + 1) 511 →
    (code = S.prevCode → len = S.prevLen → r = S.cfg.rep.toNat →
      S.cfg.ref.toNat * 1000000 < (t - S.lastHit).toNat →
      kfsFilter S S' code len t = ({ S' with
        lastHit := t, msgTs := t, msgId := code, msgLen := len, strobe := true, reps := 0 }, true))
    ∧ (code = S.prevCode → len = S.prevLen →
      r ≠ S.cfg.rep.toNat ∨ (t - S.lastHit).toNat ≤ S.cfg.ref.toNat * 1000000 →
      kfsFilter S S' code len t = ({ S' with reps := BitVec.ofNat 9 r }, false))
    ∧ (code ≠ S.prevCode ∨ len ≠ S.prevLen →
      kfsFilter S S' code len t = ({ S' with reps := 0, prevCode := code, prevLen := len }, false))

/-- R157: offered the same new code again and again outside the refractory period, the filter accepts
exactly the (rep+1)-th candidate, and from then on every rep-th; KFS the same with the length. -/
def Obligations.FramesNeededForAnAccept : Prop :=
  (∀ (c : CocoState) (code : BitVec 32) (t0 : Word) (ts : List Word),
    1 ≤ c.cfg.rep.toNat → ts.length = c.cfg.rep.toNat →
    (∀ t ∈ ts, c.cfg.ref.toNat * 1000000 < (t - c.lastHit).toNat) →
    (c.prevCode ≠ code → (cocoOffers code c (t0 :: ts)).2
        = false :: (List.replicate (c.cfg.rep.toNat - 1) false ++ [true]))
    ∧ (c.prevCode = code → c.reps = 0 →
        (cocoOffers code c ts).2 = List.replicate (c.cfg.rep.toNat - 1) false ++ [true]
        ∧ (cocoOffers code c ts).1.prevCode = code ∧ (cocoOffers code c ts).1.reps = 0))
  ∧ (∀ (k : KfsState) (code : BitVec 24) (len : BitVec 5) (t0 : Word) (ts : List Word),
    1 ≤ k.cfg.rep.toNat → ts.length = k.cfg.rep.toNat →
    (∀ t ∈ ts, k.cfg.ref.toNat * 1000000 < (t - k.lastHit).toNat) →
    (k.prevCode ≠ code ∨ k.prevLen ≠ len → (kfsOffers code len k (t0 :: ts)).2
        = false :: (List.replicate (k.cfg.rep.toNat - 1) false ++ [true]))
    ∧ (k.prevCode = code → k.prevLen = len → k.reps = 0 →
        (kfsOffers code len k ts).2 = List.replicate (k.cfg.rep.toNat - 1) false ++ [true]
        ∧ (kfsOffers code len k ts).1.prevCode = code ∧ (kfsOffers code len k ts).1.reps = 0))

/-- R152, R158, R250: the filter never accepts with `rep` = 0, nor a candidate no later than the
refractory period while no message was accepted since reset; a count that saturates stays at 511 and
never equals `rep`. -/
def Obligations.FilterNeverAccepts : Prop :=
  ∀ (cfg : DecoderCfg) (same : Bool) (reps : BitVec 9) (lastHit t : Word),
    (cfg.rep = 0 → filterVerdict cfg same reps lastHit t ≠ .accept)
    ∧ (t.toNat ≤ cfg.ref.toNat * 1000000 → filterVerdict cfg same reps 0 t ≠ .accept)
    ∧ (reps = 511 → filterVerdict cfg true reps lastHit t = .count 511)

/-! ## Interrupt and message ports -/

/-- R215: `irq` is high exactly when a STATUS bit and its IRQ_EN bit, as a host reads them, are both 1. -/
def Obligations.InterruptFollowsStatus : Prop :=
  ∀ b : Block, b.irq = true ↔
    ∃ k, k < 5 ∧ (pack b 0x00).getLsbD k = true ∧ (pack b 0x01).getLsbD k = true

/-- R120, R24: the field split of a COCO code, `address(26) | group(1) | onOff(1) | channel(4)`. -/
def Obligations.CocoFieldSplit : Prop :=
  ∀ b : Block, b.cocoMsgCode.toNat = b.cocoMsgAddress.toNat * 2 ^ 6 + b.cocoMsgGroup.toNat * 2 ^ 5
    + b.cocoMsgOnOff.toNat * 2 ^ 4 + b.cocoMsgChannel.toNat ∧ b.cocoMsgCode = b.coco.msgCode

/-! ## Headline results -/

/-- R57: every cycle keeps the invariants, in every state with legal parameters. -/
def Obligations.CyclesKeepTheInvariants : Prop :=
  ∀ s t : State, ParamsLegal s.params → s.Inv → step s = .next t → t.Inv

/-- R57: the invariants hold right after reset, and after RESET with any buffer contents. -/
def Obligations.ResetHasTheInvariants : Prop :=
  State.reset.Inv ∧ ∀ p cb kb, (Block.reset cb kb).Inv p

/-- R57: "The state always satisfies these invariants": after any number of cycles from reset, with any
inputs and any legal parameters. -/
def Obligations.InvariantsAlwaysHold : Prop :=
  ∀ (p : Config.Params) (is : List CycleIn) (n : Nat), ParamsLegal p →
    ∃ t, core.run n (State.resetWith p is) = .next t ∧ t.Inv

/-- R240, R53: a cycle of two states that differ only in buffer entries at or above the write indices
gives two states that again differ only there, with the same value on `bus_rdata`. -/
def Obligations.CyclesNeverReadUnwrittenEntries : Prop :=
  ∀ s t s' : State, s.Agree t → step s = .next s' → ∃ t', step t = .next t' ∧ s'.Agree t'

/-- R240: the contents of the frame buffers after reset are never observable: two machines reset with
different contents are the same from outside after any number of cycles with any inputs. -/
def Obligations.ResetBufferContentsAreUnobservable : Prop :=
  ∀ (s : State) (cb cb' : Vector Dur Config.cocoBufDepth) (kb kb' : Vector Dur Config.kfsBufDepth) (n : Nat),
    ∃ t t', core.run n { s with blk := Block.reset cb kb } = .next t
      ∧ core.run n { s with blk := Block.reset cb' kb' } = .next t' ∧ t.SameOutside t'

/-- R173: the durations of `CocoSeq(c, u)`, measured edge to edge and stored as one frame by a decoder
whose nominal is `u`, decode to `c`, and the estimated pulse is `u`; start and end sync are recognised. -/
def Obligations.CocoFramesDecodeToTheirCode : Prop :=
  ∀ (cfg : DecoderCfg) (code : BitVec 32) (B : Vector Dur Config.cocoBufDepth), cfg.Legal →
    (∀ i, i < 131 → (bufRead B i).toNat = (cocoSeq code cfg.nom.toNat).getD (i + 1) 0) →
      cocoWalk cfg B = some code ∧ isS cfg (bufRead B 0) = true ∧ isE cfg (bufRead B 130) = true
      ∧ (cocoEff B).toNat = cfg.nom.toNat

/-- R173: the durations of `KfsSeq(id, n, u)`, stored as one frame by a decoder whose nominal is `u`,
decode to the low `n` bits of `id` and the length `n`; the sync is recognised. The frame's last entry, the
next frame's leading unit, may hold anything. -/
def Obligations.KfsFramesDecodeToTheirCode : Prop :=
  ∀ (cfg : DecoderCfg) (id : BitVec 32) (n : Nat) (B : Vector Dur Config.kfsBufDepth), cfg.Legal →
    1 ≤ n → n ≤ 24 →
    (∀ i, i < 2 * n + 1 → (bufRead B i).toNat = (kfsSeq id n cfg.nom.toNat).getD (i + 1) 0) →
      kfsWalk cfg B (2 * n + 2) = (BitVec.ofNat 24 (id.toNat % 2 ^ n), n)
      ∧ isKS cfg (bufRead B 0) = true
end

