-- ==== Sys2Proof/Laws/State.lean ====
section
/-! SUPPORT. One lemma per field per update of the state, so that no later proof unfolds an update. -/

namespace Sys2Proof.Machine

variable (s : State)

/-! ### setCoco -/

@[simp] theorem State.setCoco_blk_coco (c : CocoState) :
    (s.setCoco c).blk.coco = c := rfl
@[simp] theorem State.setCoco_blk_kfs (c : CocoState) :
    (s.setCoco c).blk.kfs = s.blk.kfs := rfl
@[simp] theorem State.setCoco_blk_tx (c : CocoState) :
    (s.setCoco c).blk.tx = s.blk.tx := rfl
@[simp] theorem State.setCoco_blk_seq (c : CocoState) :
    (s.setCoco c).blk.seq = s.blk.seq := rfl
@[simp] theorem State.setCoco_blk_st (c : CocoState) :
    (s.setCoco c).blk.st = s.blk.st := rfl
@[simp] theorem State.setCoco_blk_irqEn (c : CocoState) :
    (s.setCoco c).blk.irqEn = s.blk.irqEn := rfl
@[simp] theorem State.setCoco_blk_errCause (c : CocoState) :
    (s.setCoco c).blk.errCause = s.blk.errCause := rfl
@[simp] theorem State.setCoco_pre (c : CocoState) :
    (s.setCoco c).pre = s.pre := rfl
@[simp] theorem State.setCoco_set (c : CocoState) :
    (s.setCoco c).set = s.set := rfl
@[simp] theorem State.setCoco_clr (c : CocoState) :
    (s.setCoco c).clr = s.clr := rfl
@[simp] theorem State.setCoco_busRdata (c : CocoState) :
    (s.setCoco c).busRdata = s.busRdata := rfl
@[simp] theorem State.setCoco_inputs (c : CocoState) :
    (s.setCoco c).inputs = s.inputs := rfl
@[simp] theorem State.setCoco_params (c : CocoState) :
    (s.setCoco c).params = s.params := rfl
@[simp] theorem State.setCoco_freeCtr (c : CocoState) :
    (s.setCoco c).freeCtr = s.freeCtr := rfl

/-! ### setKfs -/

@[simp] theorem State.setKfs_blk_coco (k : KfsState) :
    (s.setKfs k).blk.coco = s.blk.coco := rfl
@[simp] theorem State.setKfs_blk_kfs (k : KfsState) :
    (s.setKfs k).blk.kfs = k := rfl
@[simp] theorem State.setKfs_blk_tx (k : KfsState) :
    (s.setKfs k).blk.tx = s.blk.tx := rfl
@[simp] theorem State.setKfs_blk_seq (k : KfsState) :
    (s.setKfs k).blk.seq = s.blk.seq := rfl
@[simp] theorem State.setKfs_blk_st (k : KfsState) :
    (s.setKfs k).blk.st = s.blk.st := rfl
@[simp] theorem State.setKfs_blk_irqEn (k : KfsState) :
    (s.setKfs k).blk.irqEn = s.blk.irqEn := rfl
@[simp] theorem State.setKfs_blk_errCause (k : KfsState) :
    (s.setKfs k).blk.errCause = s.blk.errCause := rfl
@[simp] theorem State.setKfs_pre (k : KfsState) :
    (s.setKfs k).pre = s.pre := rfl
@[simp] theorem State.setKfs_set (k : KfsState) :
    (s.setKfs k).set = s.set := rfl
@[simp] theorem State.setKfs_clr (k : KfsState) :
    (s.setKfs k).clr = s.clr := rfl
@[simp] theorem State.setKfs_busRdata (k : KfsState) :
    (s.setKfs k).busRdata = s.busRdata := rfl
@[simp] theorem State.setKfs_inputs (k : KfsState) :
    (s.setKfs k).inputs = s.inputs := rfl
@[simp] theorem State.setKfs_params (k : KfsState) :
    (s.setKfs k).params = s.params := rfl
@[simp] theorem State.setKfs_freeCtr (k : KfsState) :
    (s.setKfs k).freeCtr = s.freeCtr := rfl

/-! ### setTx -/

@[simp] theorem State.setTx_blk_coco (x : TxCfg) :
    (s.setTx x).blk.coco = s.blk.coco := rfl
@[simp] theorem State.setTx_blk_kfs (x : TxCfg) :
    (s.setTx x).blk.kfs = s.blk.kfs := rfl
@[simp] theorem State.setTx_blk_tx (x : TxCfg) :
    (s.setTx x).blk.tx = x := rfl
@[simp] theorem State.setTx_blk_seq (x : TxCfg) :
    (s.setTx x).blk.seq = s.blk.seq := rfl
@[simp] theorem State.setTx_blk_st (x : TxCfg) :
    (s.setTx x).blk.st = s.blk.st := rfl
@[simp] theorem State.setTx_blk_irqEn (x : TxCfg) :
    (s.setTx x).blk.irqEn = s.blk.irqEn := rfl
@[simp] theorem State.setTx_blk_errCause (x : TxCfg) :
    (s.setTx x).blk.errCause = s.blk.errCause := rfl
@[simp] theorem State.setTx_pre (x : TxCfg) :
    (s.setTx x).pre = s.pre := rfl
@[simp] theorem State.setTx_set (x : TxCfg) :
    (s.setTx x).set = s.set := rfl
@[simp] theorem State.setTx_clr (x : TxCfg) :
    (s.setTx x).clr = s.clr := rfl
@[simp] theorem State.setTx_busRdata (x : TxCfg) :
    (s.setTx x).busRdata = s.busRdata := rfl
@[simp] theorem State.setTx_inputs (x : TxCfg) :
    (s.setTx x).inputs = s.inputs := rfl
@[simp] theorem State.setTx_params (x : TxCfg) :
    (s.setTx x).params = s.params := rfl
@[simp] theorem State.setTx_freeCtr (x : TxCfg) :
    (s.setTx x).freeCtr = s.freeCtr := rfl

/-! ### setSeq -/

@[simp] theorem State.setSeq_blk_coco (q : Seq) :
    (s.setSeq q).blk.coco = s.blk.coco := rfl
@[simp] theorem State.setSeq_blk_kfs (q : Seq) :
    (s.setSeq q).blk.kfs = s.blk.kfs := rfl
@[simp] theorem State.setSeq_blk_tx (q : Seq) :
    (s.setSeq q).blk.tx = s.blk.tx := rfl
@[simp] theorem State.setSeq_blk_seq (q : Seq) :
    (s.setSeq q).blk.seq = q := rfl
@[simp] theorem State.setSeq_blk_st (q : Seq) :
    (s.setSeq q).blk.st = s.blk.st := rfl
@[simp] theorem State.setSeq_blk_irqEn (q : Seq) :
    (s.setSeq q).blk.irqEn = s.blk.irqEn := rfl
@[simp] theorem State.setSeq_blk_errCause (q : Seq) :
    (s.setSeq q).blk.errCause = s.blk.errCause := rfl
@[simp] theorem State.setSeq_pre (q : Seq) :
    (s.setSeq q).pre = s.pre := rfl
@[simp] theorem State.setSeq_set (q : Seq) :
    (s.setSeq q).set = s.set := rfl
@[simp] theorem State.setSeq_clr (q : Seq) :
    (s.setSeq q).clr = s.clr := rfl
@[simp] theorem State.setSeq_busRdata (q : Seq) :
    (s.setSeq q).busRdata = s.busRdata := rfl
@[simp] theorem State.setSeq_inputs (q : Seq) :
    (s.setSeq q).inputs = s.inputs := rfl
@[simp] theorem State.setSeq_params (q : Seq) :
    (s.setSeq q).params = s.params := rfl
@[simp] theorem State.setSeq_freeCtr (q : Seq) :
    (s.setSeq q).freeCtr = s.freeCtr := rfl

/-! ### setIrqEn -/

@[simp] theorem State.setIrqEn_blk_coco (e : BitVec 5) :
    (s.setIrqEn e).blk.coco = s.blk.coco := rfl
@[simp] theorem State.setIrqEn_blk_kfs (e : BitVec 5) :
    (s.setIrqEn e).blk.kfs = s.blk.kfs := rfl
@[simp] theorem State.setIrqEn_blk_tx (e : BitVec 5) :
    (s.setIrqEn e).blk.tx = s.blk.tx := rfl
@[simp] theorem State.setIrqEn_blk_seq (e : BitVec 5) :
    (s.setIrqEn e).blk.seq = s.blk.seq := rfl
@[simp] theorem State.setIrqEn_blk_st (e : BitVec 5) :
    (s.setIrqEn e).blk.st = s.blk.st := rfl
@[simp] theorem State.setIrqEn_blk_irqEn (e : BitVec 5) :
    (s.setIrqEn e).blk.irqEn = e := rfl
@[simp] theorem State.setIrqEn_blk_errCause (e : BitVec 5) :
    (s.setIrqEn e).blk.errCause = s.blk.errCause := rfl
@[simp] theorem State.setIrqEn_pre (e : BitVec 5) :
    (s.setIrqEn e).pre = s.pre := rfl
@[simp] theorem State.setIrqEn_set (e : BitVec 5) :
    (s.setIrqEn e).set = s.set := rfl
@[simp] theorem State.setIrqEn_clr (e : BitVec 5) :
    (s.setIrqEn e).clr = s.clr := rfl
@[simp] theorem State.setIrqEn_busRdata (e : BitVec 5) :
    (s.setIrqEn e).busRdata = s.busRdata := rfl
@[simp] theorem State.setIrqEn_inputs (e : BitVec 5) :
    (s.setIrqEn e).inputs = s.inputs := rfl
@[simp] theorem State.setIrqEn_params (e : BitVec 5) :
    (s.setIrqEn e).params = s.params := rfl
@[simp] theorem State.setIrqEn_freeCtr (e : BitVec 5) :
    (s.setIrqEn e).freeCtr = s.freeCtr := rfl

/-! ### setErrCause -/

@[simp] theorem State.setErrCause_blk_coco (v : BitVec 8) :
    (s.setErrCause v).blk.coco = s.blk.coco := rfl
@[simp] theorem State.setErrCause_blk_kfs (v : BitVec 8) :
    (s.setErrCause v).blk.kfs = s.blk.kfs := rfl
@[simp] theorem State.setErrCause_blk_tx (v : BitVec 8) :
    (s.setErrCause v).blk.tx = s.blk.tx := rfl
@[simp] theorem State.setErrCause_blk_seq (v : BitVec 8) :
    (s.setErrCause v).blk.seq = s.blk.seq := rfl
@[simp] theorem State.setErrCause_blk_st (v : BitVec 8) :
    (s.setErrCause v).blk.st = s.blk.st := rfl
@[simp] theorem State.setErrCause_blk_irqEn (v : BitVec 8) :
    (s.setErrCause v).blk.irqEn = s.blk.irqEn := rfl
@[simp] theorem State.setErrCause_blk_errCause (v : BitVec 8) :
    (s.setErrCause v).blk.errCause = v := rfl
@[simp] theorem State.setErrCause_pre (v : BitVec 8) :
    (s.setErrCause v).pre = s.pre := rfl
@[simp] theorem State.setErrCause_set (v : BitVec 8) :
    (s.setErrCause v).set = s.set := rfl
@[simp] theorem State.setErrCause_clr (v : BitVec 8) :
    (s.setErrCause v).clr = s.clr := rfl
@[simp] theorem State.setErrCause_busRdata (v : BitVec 8) :
    (s.setErrCause v).busRdata = s.busRdata := rfl
@[simp] theorem State.setErrCause_inputs (v : BitVec 8) :
    (s.setErrCause v).inputs = s.inputs := rfl
@[simp] theorem State.setErrCause_params (v : BitVec 8) :
    (s.setErrCause v).params = s.params := rfl
@[simp] theorem State.setErrCause_freeCtr (v : BitVec 8) :
    (s.setErrCause v).freeCtr = s.freeCtr := rfl

/-! ### setCocoCfg -/

@[simp] theorem State.setCocoCfg_blk_coco (g : DecoderCfg) :
    (s.setCocoCfg g).blk.coco = { s.blk.coco with cfg := g } := rfl
@[simp] theorem State.setCocoCfg_blk_kfs (g : DecoderCfg) :
    (s.setCocoCfg g).blk.kfs = s.blk.kfs := rfl
@[simp] theorem State.setCocoCfg_blk_tx (g : DecoderCfg) :
    (s.setCocoCfg g).blk.tx = s.blk.tx := rfl
@[simp] theorem State.setCocoCfg_blk_seq (g : DecoderCfg) :
    (s.setCocoCfg g).blk.seq = s.blk.seq := rfl
@[simp] theorem State.setCocoCfg_blk_st (g : DecoderCfg) :
    (s.setCocoCfg g).blk.st = s.blk.st := rfl
@[simp] theorem State.setCocoCfg_blk_irqEn (g : DecoderCfg) :
    (s.setCocoCfg g).blk.irqEn = s.blk.irqEn := rfl
@[simp] theorem State.setCocoCfg_blk_errCause (g : DecoderCfg) :
    (s.setCocoCfg g).blk.errCause = s.blk.errCause := rfl
@[simp] theorem State.setCocoCfg_pre (g : DecoderCfg) :
    (s.setCocoCfg g).pre = s.pre := rfl
@[simp] theorem State.setCocoCfg_set (g : DecoderCfg) :
    (s.setCocoCfg g).set = s.set := rfl
@[simp] theorem State.setCocoCfg_clr (g : DecoderCfg) :
    (s.setCocoCfg g).clr = s.clr := rfl
@[simp] theorem State.setCocoCfg_busRdata (g : DecoderCfg) :
    (s.setCocoCfg g).busRdata = s.busRdata := rfl
@[simp] theorem State.setCocoCfg_inputs (g : DecoderCfg) :
    (s.setCocoCfg g).inputs = s.inputs := rfl
@[simp] theorem State.setCocoCfg_params (g : DecoderCfg) :
    (s.setCocoCfg g).params = s.params := rfl
@[simp] theorem State.setCocoCfg_freeCtr (g : DecoderCfg) :
    (s.setCocoCfg g).freeCtr = s.freeCtr := rfl

/-! ### setKfsCfg -/

@[simp] theorem State.setKfsCfg_blk_coco (g : DecoderCfg) :
    (s.setKfsCfg g).blk.coco = s.blk.coco := rfl
@[simp] theorem State.setKfsCfg_blk_kfs (g : DecoderCfg) :
    (s.setKfsCfg g).blk.kfs = { s.blk.kfs with cfg := g } := rfl
@[simp] theorem State.setKfsCfg_blk_tx (g : DecoderCfg) :
    (s.setKfsCfg g).blk.tx = s.blk.tx := rfl
@[simp] theorem State.setKfsCfg_blk_seq (g : DecoderCfg) :
    (s.setKfsCfg g).blk.seq = s.blk.seq := rfl
@[simp] theorem State.setKfsCfg_blk_st (g : DecoderCfg) :
    (s.setKfsCfg g).blk.st = s.blk.st := rfl
@[simp] theorem State.setKfsCfg_blk_irqEn (g : DecoderCfg) :
    (s.setKfsCfg g).blk.irqEn = s.blk.irqEn := rfl
@[simp] theorem State.setKfsCfg_blk_errCause (g : DecoderCfg) :
    (s.setKfsCfg g).blk.errCause = s.blk.errCause := rfl
@[simp] theorem State.setKfsCfg_pre (g : DecoderCfg) :
    (s.setKfsCfg g).pre = s.pre := rfl
@[simp] theorem State.setKfsCfg_set (g : DecoderCfg) :
    (s.setKfsCfg g).set = s.set := rfl
@[simp] theorem State.setKfsCfg_clr (g : DecoderCfg) :
    (s.setKfsCfg g).clr = s.clr := rfl
@[simp] theorem State.setKfsCfg_busRdata (g : DecoderCfg) :
    (s.setKfsCfg g).busRdata = s.busRdata := rfl
@[simp] theorem State.setKfsCfg_inputs (g : DecoderCfg) :
    (s.setKfsCfg g).inputs = s.inputs := rfl
@[simp] theorem State.setKfsCfg_params (g : DecoderCfg) :
    (s.setKfsCfg g).params = s.params := rfl
@[simp] theorem State.setKfsCfg_freeCtr (g : DecoderCfg) :
    (s.setKfsCfg g).freeCtr = s.freeCtr := rfl

/-! ### signalCocoMsg -/

@[simp] theorem State.signalCocoMsg_blk_coco :
    (s.signalCocoMsg).blk.coco = s.blk.coco := rfl
@[simp] theorem State.signalCocoMsg_blk_kfs :
    (s.signalCocoMsg).blk.kfs = s.blk.kfs := rfl
@[simp] theorem State.signalCocoMsg_blk_tx :
    (s.signalCocoMsg).blk.tx = s.blk.tx := rfl
@[simp] theorem State.signalCocoMsg_blk_seq :
    (s.signalCocoMsg).blk.seq = s.blk.seq := rfl
@[simp] theorem State.signalCocoMsg_blk_st :
    (s.signalCocoMsg).blk.st = { s.blk.st with cocoMsg := mergeBit s.pre.st.cocoMsg s.clr.cocoMsg true } := rfl
@[simp] theorem State.signalCocoMsg_blk_irqEn :
    (s.signalCocoMsg).blk.irqEn = s.blk.irqEn := rfl
@[simp] theorem State.signalCocoMsg_blk_errCause :
    (s.signalCocoMsg).blk.errCause = s.blk.errCause := rfl
@[simp] theorem State.signalCocoMsg_pre :
    (s.signalCocoMsg).pre = s.pre := rfl
@[simp] theorem State.signalCocoMsg_set :
    (s.signalCocoMsg).set = { s.set with cocoMsg := true } := rfl
@[simp] theorem State.signalCocoMsg_clr :
    (s.signalCocoMsg).clr = s.clr := rfl
@[simp] theorem State.signalCocoMsg_busRdata :
    (s.signalCocoMsg).busRdata = s.busRdata := rfl
@[simp] theorem State.signalCocoMsg_inputs :
    (s.signalCocoMsg).inputs = s.inputs := rfl
@[simp] theorem State.signalCocoMsg_params :
    (s.signalCocoMsg).params = s.params := rfl
@[simp] theorem State.signalCocoMsg_freeCtr :
    (s.signalCocoMsg).freeCtr = s.freeCtr := rfl

/-! ### signalKfsMsg -/

@[simp] theorem State.signalKfsMsg_blk_coco :
    (s.signalKfsMsg).blk.coco = s.blk.coco := rfl
@[simp] theorem State.signalKfsMsg_blk_kfs :
    (s.signalKfsMsg).blk.kfs = s.blk.kfs := rfl
@[simp] theorem State.signalKfsMsg_blk_tx :
    (s.signalKfsMsg).blk.tx = s.blk.tx := rfl
@[simp] theorem State.signalKfsMsg_blk_seq :
    (s.signalKfsMsg).blk.seq = s.blk.seq := rfl
@[simp] theorem State.signalKfsMsg_blk_st :
    (s.signalKfsMsg).blk.st = { s.blk.st with kfsMsg := mergeBit s.pre.st.kfsMsg s.clr.kfsMsg true } := rfl
@[simp] theorem State.signalKfsMsg_blk_irqEn :
    (s.signalKfsMsg).blk.irqEn = s.blk.irqEn := rfl
@[simp] theorem State.signalKfsMsg_blk_errCause :
    (s.signalKfsMsg).blk.errCause = s.blk.errCause := rfl
@[simp] theorem State.signalKfsMsg_pre :
    (s.signalKfsMsg).pre = s.pre := rfl
@[simp] theorem State.signalKfsMsg_set :
    (s.signalKfsMsg).set = { s.set with kfsMsg := true } := rfl
@[simp] theorem State.signalKfsMsg_clr :
    (s.signalKfsMsg).clr = s.clr := rfl
@[simp] theorem State.signalKfsMsg_busRdata :
    (s.signalKfsMsg).busRdata = s.busRdata := rfl
@[simp] theorem State.signalKfsMsg_inputs :
    (s.signalKfsMsg).inputs = s.inputs := rfl
@[simp] theorem State.signalKfsMsg_params :
    (s.signalKfsMsg).params = s.params := rfl
@[simp] theorem State.signalKfsMsg_freeCtr :
    (s.signalKfsMsg).freeCtr = s.freeCtr := rfl

/-! ### signalCfgErr -/

@[simp] theorem State.signalCfgErr_blk_coco :
    (s.signalCfgErr).blk.coco = s.blk.coco := rfl
@[simp] theorem State.signalCfgErr_blk_kfs :
    (s.signalCfgErr).blk.kfs = s.blk.kfs := rfl
@[simp] theorem State.signalCfgErr_blk_tx :
    (s.signalCfgErr).blk.tx = s.blk.tx := rfl
@[simp] theorem State.signalCfgErr_blk_seq :
    (s.signalCfgErr).blk.seq = s.blk.seq := rfl
@[simp] theorem State.signalCfgErr_blk_st :
    (s.signalCfgErr).blk.st = { s.blk.st with cfgErr := mergeBit s.pre.st.cfgErr s.clr.cfgErr true } := rfl
@[simp] theorem State.signalCfgErr_blk_irqEn :
    (s.signalCfgErr).blk.irqEn = s.blk.irqEn := rfl
@[simp] theorem State.signalCfgErr_blk_errCause :
    (s.signalCfgErr).blk.errCause = s.blk.errCause := rfl
@[simp] theorem State.signalCfgErr_pre :
    (s.signalCfgErr).pre = s.pre := rfl
@[simp] theorem State.signalCfgErr_set :
    (s.signalCfgErr).set = { s.set with cfgErr := true } := rfl
@[simp] theorem State.signalCfgErr_clr :
    (s.signalCfgErr).clr = s.clr := rfl
@[simp] theorem State.signalCfgErr_busRdata :
    (s.signalCfgErr).busRdata = s.busRdata := rfl
@[simp] theorem State.signalCfgErr_inputs :
    (s.signalCfgErr).inputs = s.inputs := rfl
@[simp] theorem State.signalCfgErr_params :
    (s.signalCfgErr).params = s.params := rfl
@[simp] theorem State.signalCfgErr_freeCtr :
    (s.signalCfgErr).freeCtr = s.freeCtr := rfl

/-! ### signalTxErr -/

@[simp] theorem State.signalTxErr_blk_coco :
    (s.signalTxErr).blk.coco = s.blk.coco := rfl
@[simp] theorem State.signalTxErr_blk_kfs :
    (s.signalTxErr).blk.kfs = s.blk.kfs := rfl
@[simp] theorem State.signalTxErr_blk_tx :
    (s.signalTxErr).blk.tx = s.blk.tx := rfl
@[simp] theorem State.signalTxErr_blk_seq :
    (s.signalTxErr).blk.seq = s.blk.seq := rfl
@[simp] theorem State.signalTxErr_blk_st :
    (s.signalTxErr).blk.st = { s.blk.st with txErr := mergeBit s.pre.st.txErr s.clr.txErr true } := rfl
@[simp] theorem State.signalTxErr_blk_irqEn :
    (s.signalTxErr).blk.irqEn = s.blk.irqEn := rfl
@[simp] theorem State.signalTxErr_blk_errCause :
    (s.signalTxErr).blk.errCause = s.blk.errCause := rfl
@[simp] theorem State.signalTxErr_pre :
    (s.signalTxErr).pre = s.pre := rfl
@[simp] theorem State.signalTxErr_set :
    (s.signalTxErr).set = { s.set with txErr := true } := rfl
@[simp] theorem State.signalTxErr_clr :
    (s.signalTxErr).clr = s.clr := rfl
@[simp] theorem State.signalTxErr_busRdata :
    (s.signalTxErr).busRdata = s.busRdata := rfl
@[simp] theorem State.signalTxErr_inputs :
    (s.signalTxErr).inputs = s.inputs := rfl
@[simp] theorem State.signalTxErr_params :
    (s.signalTxErr).params = s.params := rfl
@[simp] theorem State.signalTxErr_freeCtr :
    (s.signalTxErr).freeCtr = s.freeCtr := rfl

/-! ### signalTxDone -/

@[simp] theorem State.signalTxDone_blk_coco :
    (s.signalTxDone).blk.coco = s.blk.coco := rfl
@[simp] theorem State.signalTxDone_blk_kfs :
    (s.signalTxDone).blk.kfs = s.blk.kfs := rfl
@[simp] theorem State.signalTxDone_blk_tx :
    (s.signalTxDone).blk.tx = s.blk.tx := rfl
@[simp] theorem State.signalTxDone_blk_seq :
    (s.signalTxDone).blk.seq = s.blk.seq := rfl
@[simp] theorem State.signalTxDone_blk_st :
    (s.signalTxDone).blk.st = { s.blk.st with txDone := mergeBit s.pre.st.txDone s.clr.txDone true } := rfl
@[simp] theorem State.signalTxDone_blk_irqEn :
    (s.signalTxDone).blk.irqEn = s.blk.irqEn := rfl
@[simp] theorem State.signalTxDone_blk_errCause :
    (s.signalTxDone).blk.errCause = s.blk.errCause := rfl
@[simp] theorem State.signalTxDone_pre :
    (s.signalTxDone).pre = s.pre := rfl
@[simp] theorem State.signalTxDone_set :
    (s.signalTxDone).set = { s.set with txDone := true } := rfl
@[simp] theorem State.signalTxDone_clr :
    (s.signalTxDone).clr = s.clr := rfl
@[simp] theorem State.signalTxDone_busRdata :
    (s.signalTxDone).busRdata = s.busRdata := rfl
@[simp] theorem State.signalTxDone_inputs :
    (s.signalTxDone).inputs = s.inputs := rfl
@[simp] theorem State.signalTxDone_params :
    (s.signalTxDone).params = s.params := rfl
@[simp] theorem State.signalTxDone_freeCtr :
    (s.signalTxDone).freeCtr = s.freeCtr := rfl

/-! ### clearSticky -/

@[simp] theorem State.clearSticky_blk_coco (m : Sticky) :
    (s.clearSticky m).blk.coco = s.blk.coco := rfl
@[simp] theorem State.clearSticky_blk_kfs (m : Sticky) :
    (s.clearSticky m).blk.kfs = s.blk.kfs := rfl
@[simp] theorem State.clearSticky_blk_tx (m : Sticky) :
    (s.clearSticky m).blk.tx = s.blk.tx := rfl
@[simp] theorem State.clearSticky_blk_seq (m : Sticky) :
    (s.clearSticky m).blk.seq = s.blk.seq := rfl
@[simp] theorem State.clearSticky_blk_st (m : Sticky) :
    (s.clearSticky m).blk.st = Sticky.merge s.pre.st m s.set := rfl
@[simp] theorem State.clearSticky_blk_irqEn (m : Sticky) :
    (s.clearSticky m).blk.irqEn = s.blk.irqEn := rfl
@[simp] theorem State.clearSticky_blk_errCause (m : Sticky) :
    (s.clearSticky m).blk.errCause = s.blk.errCause := rfl
@[simp] theorem State.clearSticky_pre (m : Sticky) :
    (s.clearSticky m).pre = s.pre := rfl
@[simp] theorem State.clearSticky_set (m : Sticky) :
    (s.clearSticky m).set = s.set := rfl
@[simp] theorem State.clearSticky_clr (m : Sticky) :
    (s.clearSticky m).clr = m := rfl
@[simp] theorem State.clearSticky_busRdata (m : Sticky) :
    (s.clearSticky m).busRdata = s.busRdata := rfl
@[simp] theorem State.clearSticky_inputs (m : Sticky) :
    (s.clearSticky m).inputs = s.inputs := rfl
@[simp] theorem State.clearSticky_params (m : Sticky) :
    (s.clearSticky m).params = s.params := rfl
@[simp] theorem State.clearSticky_freeCtr (m : Sticky) :
    (s.clearSticky m).freeCtr = s.freeCtr := rfl

/-! ### openCycle -/

@[simp] theorem State.openCycle_blk_coco :
    (s.openCycle).blk.coco = { s.blk.coco with strobe := false } := rfl
@[simp] theorem State.openCycle_blk_kfs :
    (s.openCycle).blk.kfs = { s.blk.kfs with strobe := false } := rfl
@[simp] theorem State.openCycle_blk_tx :
    (s.openCycle).blk.tx = s.blk.tx := rfl
@[simp] theorem State.openCycle_blk_seq :
    (s.openCycle).blk.seq = s.blk.seq := rfl
@[simp] theorem State.openCycle_blk_st :
    (s.openCycle).blk.st = s.blk.st := rfl
@[simp] theorem State.openCycle_blk_irqEn :
    (s.openCycle).blk.irqEn = s.blk.irqEn := rfl
@[simp] theorem State.openCycle_blk_errCause :
    (s.openCycle).blk.errCause = s.blk.errCause := rfl
@[simp] theorem State.openCycle_pre :
    (s.openCycle).pre = s.blk := rfl
@[simp] theorem State.openCycle_set :
    (s.openCycle).set = .none := rfl
@[simp] theorem State.openCycle_clr :
    (s.openCycle).clr = .none := rfl
@[simp] theorem State.openCycle_busRdata :
    (s.openCycle).busRdata = 0 := rfl
@[simp] theorem State.openCycle_inputs :
    (s.openCycle).inputs = s.inputs.tail := rfl
@[simp] theorem State.openCycle_params :
    (s.openCycle).params = s.params := rfl
@[simp] theorem State.openCycle_freeCtr :
    (s.openCycle).freeCtr = s.freeCtr := rfl

end Sys2Proof.Machine
end

