-- ==== Sys2Proof/Laws/Operands.lean ====
section
/-! SUPPORT. What operand fields, validity checks and placed fields are as numbers (30_encoding.md R84). -/

namespace Sys2Proof.Machine

theorem field_toNat (lo len : Nat) (d : Word) : (field lo len d).toNat = d.toNat / 2 ^ lo % 2 ^ len := by
  simp [field, BitVec.extractLsb'_toNat, Nat.shiftRight_eq_div_pow]

theorem field_eq_zero_iff (lo len : Nat) (d : Word) :
    field lo len d = 0 ↔ d.toNat / 2 ^ lo % 2 ^ len = 0 := by
  rw [← field_toNat, ← BitVec.toNat_inj]; simp

theorem field_eq_ofNat (lo len : Nat) (d : Word) :
    field lo len d = BitVec.ofNat len (d.toNat / 2 ^ lo % 2 ^ len) := by
  apply BitVec.eq_of_toNat_eq; simp [field_toNat]

theorem okUnit_iff (d : Word) : okUnit d = true ↔ 1 ≤ d.toNat ∧ d.toNat < 2 ^ 16 := by
  have h := d.isLt
  simp only [okUnit, dUnit, Bool.and_eq_true, beq_iff_eq, field_eq_zero_iff, field_toNat,
    decide_eq_true_eq]
  omega

theorem okTol_iff (d : Word) :
    okTol d = true ↔ d.toNat < 2 ^ 16 ∧ 1 ≤ d.toNat % 2 ^ 8 ∧ d.toNat % 2 ^ 8 ≤ 100
      ∧ 1 ≤ d.toNat / 2 ^ 8 % 2 ^ 8 ∧ d.toNat / 2 ^ 8 % 2 ^ 8 ≤ 100 := by
  have h := d.isLt
  simp only [okTol, okPercent, dPos, dNeg, Bool.and_eq_true, beq_iff_eq, field_eq_zero_iff, field_toNat,
    decide_eq_true_eq]
  omega

theorem okRep_iff (d : Word) : okRep d = true ↔ d.toNat < 2 ^ 8 := by
  have h := d.isLt
  simp only [okRep, beq_iff_eq, field_eq_zero_iff]
  omega

theorem okRef_iff (d : Word) : okRef d = true ↔ d.toNat < 2 ^ 16 := by
  have h := d.isLt
  simp only [okRef, beq_iff_eq, field_eq_zero_iff]
  omega

theorem okCode_iff (d : Word) : okCode d = true ↔ d.toNat < 2 ^ 32 := by
  have h := d.isLt
  simp only [okCode, beq_iff_eq, field_eq_zero_iff]
  omega

theorem okKfsMsg_iff (d : Word) :
    okKfsMsg d = true ↔ d.toNat / 2 ^ 24 % 2 ^ 8 = 0 ∧ 1 ≤ d.toNat / 2 ^ 32 ∧ d.toNat / 2 ^ 32 ≤ 24 := by
  have h := d.isLt
  simp only [okKfsMsg, dLen, Bool.and_eq_true, beq_iff_eq, field_eq_zero_iff, field_toNat,
    decide_eq_true_eq]
  omega

/-- A placed field is its value times its place, where it fits the word. -/
theorem place_toNat {n : Nat} (lo : Nat) (v : BitVec n) (h : n + lo ≤ 64) :
    (place lo v).toNat = v.toNat * 2 ^ lo := by
  have hv := v.isLt
  have h1 : v.toNat * 2 ^ lo < 2 ^ 64 := by
    calc v.toNat * 2 ^ lo < 2 ^ n * 2 ^ lo := Nat.mul_lt_mul_of_pos_right hv (Nat.two_pow_pos lo)
      _ = 2 ^ (n + lo) := (Nat.pow_add 2 n lo).symm
      _ ≤ 2 ^ 64 := Nat.pow_le_pow_right (by omega) h
  have h2 : v.toNat < 2 ^ 64 :=
    lt_of_lt_of_le hv (Nat.pow_le_pow_right (by omega) (by omega))
  simp only [place, BitVec.toNat_shiftLeft, BitVec.truncate_eq_setWidth, BitVec.toNat_setWidth,
    Nat.shiftLeft_eq]
  rw [Nat.mod_eq_of_lt h2, Nat.mod_eq_of_lt h1]

/-- A placed bit is its value times its place. -/
theorem placeBit_toNat (lo : Nat) (b : Bool) (h : lo < 64) :
    (placeBit lo b).toNat = b.toNat * 2 ^ lo := by
  simp [placeBit, place_toNat lo (BitVec.ofBool b) (by omega)]

/-- Placed fields that do not overlap add up. -/
theorem or_toNat_of_lt {x y : Word} (k : Nat) (hx : x.toNat % 2 ^ k = 0) (hy : y.toNat < 2 ^ k) :
    (x ||| y).toNat = x.toNat + y.toNat := by
  rw [BitVec.toNat_or]
  obtain ⟨q, hq⟩ := Nat.dvd_of_mod_eq_zero hx
  rw [hq]
  exact (Nat.two_pow_add_eq_or_of_lt hy q).symm

/-- The bits of a placed field. -/
theorem place_getLsbD {n : Nat} (lo : Nat) (v : BitVec n) (k : Nat) :
    (place lo v).getLsbD k = (decide (k < 64) && (decide (lo ≤ k) && v.getLsbD (k - lo))) := by
  simp only [place, BitVec.truncate_eq_setWidth, BitVec.getLsbD_shiftLeft, BitVec.getLsbD_setWidth]
  by_cases h : k < 64 <;> by_cases h2 : lo ≤ k <;> simp [h, h2]
  rw [decide_eq_false (by omega : ¬ k < lo), decide_eq_true (by omega : k - lo < 64)]; simp

/-- The bits of a placed bit. -/
theorem placeBit_getLsbD (lo : Nat) (b : Bool) (k : Nat) (h : lo < 64) :
    (placeBit lo b).getLsbD k = (decide (k = lo) && b) := by
  rw [placeBit, place_getLsbD]
  cases b
  · simp
  · by_cases e : k = lo
    · subst e; simp [h]
    · by_cases e2 : lo ≤ k
      · simp [e, show k - lo ≠ 0 by omega]
      · simp [e, e2]

/-- Bits outside a mask are 0 in a field whose place is inside it. -/
theorem place_masked {n : Nat} (lo : Nat) (v : BitVec n) (m : Word)
    (h : place lo (BitVec.allOnes n) &&& ~~~ m = 0) : place lo v &&& ~~~ m = 0 := by
  apply BitVec.eq_of_getLsbD_eq
  intro i hi
  have := congrArg (fun x => x.getLsbD i) h
  simp only [BitVec.getLsbD_and, place_getLsbD, BitVec.getLsbD_allOnes] at this ⊢
  simp only [BitVec.getLsbD_not] at *
  by_cases e : i - lo < n
  · simp_all
  · have : v.getLsbD (i - lo) = false := BitVec.getLsbD_of_ge v _ (by omega)
    simp [this]

end Sys2Proof.Machine
end

