-- ==== Sys2Proof/Laws/Ops.lean ====
section
/-! SUPPORT. What the shared operations do: the merge of a sticky bit, error events, checked writes,
frame buffers, durations, the free cycle count, and the two filters. -/

namespace Sys2Proof.Machine

/-! ### The merge of a sticky bit (R69) -/

@[simp] theorem mergeBit_true (old clr : Bool) : mergeBit old clr true = true := by simp [mergeBit]

@[simp] theorem mergeBit_noClear (old set : Bool) : mergeBit old false set = (old || set) := by
  simp [mergeBit]

/-! ### Error events (R212) and checked writes -/

theorem raiseCfgError_eq (s : State) (c : CfgCause) : s.raiseCfgError c = s.cfgRejected c.code := by
  simp [State.raiseCfgError, State.signalCfgErr, State.setErrCause, State.cfgRejected]

theorem raiseTxError_eq (s : State) (c : TxCause) : s.raiseTxError c = s.txRefused c.code := by
  simp [State.raiseTxError, State.signalTxErr, State.setErrCause, State.txRefused]

theorem checkedWrite_accepts (s commit : State) (ok : Bool) (c : CfgCause) (h : ok = true) :
    checkedWrite s ok c commit = commit := by simp [checkedWrite, h]

theorem checkedWrite_rejects (s commit : State) (ok : Bool) (c : CfgCause) (h : ok = false) :
    checkedWrite s ok c commit = s.cfgRejected c.code := by simp [checkedWrite, h, raiseCfgError_eq]

/-- All that a checked write can do. -/
theorem checkedWrite_cases (s commit : State) (ok : Bool) (c : CfgCause) :
    (ok = true ∧ checkedWrite s ok c commit = commit)
      ∨ (ok = false ∧ checkedWrite s ok c commit = s.cfgRejected c.code) := by
  cases h : ok
  · exact .inr ⟨rfl, checkedWrite_rejects _ _ _ _ rfl⟩
  · exact .inl ⟨rfl, checkedWrite_accepts _ _ _ _ rfl⟩

theorem cfgCause_code_bounds (c : CfgCause) : 1 ≤ c.code.toNat ∧ c.code.toNat ≤ 6 := by
  cases c <;> decide

theorem txCause_code_cases (c : TxCause) : c.code = 0x07 ∨ c.code = 0x08 := by cases c <;> decide

/-! ### Frame buffers (R75) -/

theorem bufRead_bufWrite_same {n : Nat} (b : Vector Dur n) (i : Nat) (d : Dur) (h : i < n) :
    bufRead (bufWrite b i d) i = d := by
  simp [bufRead, bufWrite, h]

theorem bufRead_bufWrite_other {n : Nat} (b : Vector Dur n) (i j : Nat) (d : Dur) (h : j ≠ i) :
    bufRead (bufWrite b i d) j = bufRead b j := by
  simp [bufRead, bufWrite, Ne.symm h]

/-! ### Durations (R13, R110) -/

theorem duration_toNat (ts last : Word) :
    (duration ts last).toNat = min (ts - last).toNat (2 ^ 32 - 1) := by
  simp [duration, sat32]

/-! ### The cycle count of a duration (R164) -/

/-- Where 64 bits hold the product, `cycleCount` is the product. -/
theorem cycleCount_of_fits (p : Config.Params) (q : Nat) (h : q * p.cyclesPerUs < 2 ^ 64) :
    cycleCount p q = BitVec.ofNat 64 (q * p.cyclesPerUs) := by
  simp [cycleCount]; omega

theorem cycleCount_toNat_of_fits (p : Config.Params) (q : Nat) (h : q * p.cyclesPerUs < 2 ^ 64) :
    (cycleCount p q).toNat = q * p.cyclesPerUs := by
  rw [cycleCount_of_fits p q h, BitVec.toNat_ofNat, Nat.mod_eq_of_lt h]

/-- Legal parameters hold every duration of up to 40 units. -/
theorem cycleCount_of_legal (p : Config.Params) (q : Nat) (hp : ParamsLegal p) (h : q ≤ 40 * 65535) :
    (cycleCount p q).toNat = q * p.cyclesPerUs := by
  refine cycleCount_toNat_of_fits p q (lt_of_le_of_lt ?_ hp.2.1)
  exact Nat.mul_le_mul_right _ h

/-! ### Windows (R100, R106) -/

/-- Membership as the two comparisons of R15. -/
theorem Window.has_iff (w : Window) (d : Dur) :
    w.has d = true ↔ w.min ≤ d.toNat ∧ d.toNat ≤ w.max := by
  simp only [Window.has, Bool.and_eq_true, decide_eq_true_eq]

theorem win_min_lt (cfg : DecoderCfg) (n : Nat) (h : cfg.Legal) (hn : 1 ≤ n) :
    (win cfg n).min < cfg.nom.toNat * n := by
  obtain ⟨h1, -, -, h2, h3⟩ := h
  have hm : 1 ≤ cfg.nom.toNat * n := Nat.mul_pos h1 hn
  simp only [win]
  rw [Nat.div_lt_iff_lt_mul (by decide)]
  exact Nat.mul_lt_mul_of_pos_left (by omega) hm

theorem win_le_max (cfg : DecoderCfg) (n : Nat) : cfg.nom.toNat * n ≤ (win cfg n).max := by
  simp only [win]
  rw [Nat.le_div_iff_mul_le (by decide)]
  exact Nat.mul_le_mul_left _ (by omega)

theorem win_max_le (cfg : DecoderCfg) (n : Nat) (h : cfg.Legal) (hn : n ≤ 40) :
    (win cfg n).max ≤ 5242800 := by
  have hnom := cfg.nom.isLt
  have h1 : cfg.nom.toNat * n ≤ 65535 * 40 := Nat.mul_le_mul (by omega) hn
  have h2 : cfg.nom.toNat * n * (100 + cfg.pos.toNat) ≤ 65535 * 40 * 200 :=
    Nat.mul_le_mul h1 (by have := h.2.2.1; omega)
  simp only [win]; omega

/-- A duration of exactly `n` nominal units lies in the window of `n` units (R173). -/
theorem win_has_nominal (cfg : DecoderCfg) (n : Nat) (d : Dur) (h : cfg.Legal) (hn : 1 ≤ n)
    (hd : d.toNat = cfg.nom.toNat * n) : (win cfg n).has d = true := by
  rw [Window.has_iff, hd]
  exact ⟨(win_min_lt cfg n h hn).le, win_le_max cfg n⟩

/-! ### The repeat filter (R150) -/

theorem bumpReps_toNat (r : BitVec 9) : (bumpReps r).toNat = min (r.toNat + 1) 511 := by
  simp [bumpReps, repsMax]

/-- The verdict of R150, as the rule's three branches. -/
theorem filterVerdict_eq (cfg : DecoderCfg) (same : Bool) (reps : BitVec 9) (lastHit t : Word) :
    filterVerdict cfg same reps lastHit t =
      if same = true then
        if min (reps.toNat + 1) 511 = cfg.rep.toNat
            ∧ cfg.ref.toNat * 1000000 < (t - lastHit).toNat then .accept
        else .count (BitVec.ofNat 9 (min (reps.toNat + 1) 511))
      else .record := by
  simp only [filterVerdict, bumpReps_toNat, refractScale]
  rfl

/-- What the COCO filter keeps, and what an accept means (R154). -/
theorem cocoFilter_frame (S S' : CocoState) (code : BitVec 32) (t : Word) :
    let r := cocoFilter S S' code t
    r.1.cfg = S'.cfg ∧ r.1.idx = S'.idx ∧ r.1.lastTs = S'.lastTs ∧ r.1.origin = S'.origin
      ∧ r.1.buf = S'.buf ∧ r.1.eff = S'.eff
      ∧ (r.2 = false → r.1.strobe = S'.strobe ∧ r.1.lastHit = S'.lastHit ∧ r.1.msgTs = S'.msgTs
          ∧ r.1.msgCode = S'.msgCode)
      ∧ (r.2 = true → r.1.strobe = true ∧ r.1.reps = 0 ∧ r.1.msgTs = t ∧ r.1.lastHit = t
          ∧ r.1.msgCode = code ∧ code = S.prevCode ∧ r.1.prevCode = S'.prevCode) := by
  simp only [cocoFilter, filterVerdict]
  split <;> simp_all
  rename_i h
  split at h <;> simp_all

/-- What the KFS filter keeps, and what an accept means (R154). -/
theorem kfsFilter_frame (S S' : KfsState) (code : BitVec 24) (len : BitVec 5) (t : Word) :
    let r := kfsFilter S S' code len t
    r.1.cfg = S'.cfg ∧ r.1.seen = S'.seen ∧ r.1.idx = S'.idx ∧ r.1.lastTs = S'.lastTs
      ∧ r.1.origin = S'.origin ∧ r.1.buf = S'.buf
      ∧ (r.2 = false → r.1.strobe = S'.strobe ∧ r.1.lastHit = S'.lastHit ∧ r.1.msgTs = S'.msgTs
          ∧ r.1.msgId = S'.msgId ∧ r.1.msgLen = S'.msgLen)
      ∧ (r.2 = true → r.1.strobe = true ∧ r.1.reps = 0 ∧ r.1.msgTs = t ∧ r.1.lastHit = t
          ∧ r.1.msgId = code ∧ r.1.msgLen = len ∧ code = S.prevCode ∧ len = S.prevLen) := by
  simp only [kfsFilter, filterVerdict]
  split <;> simp_all
  rename_i h
  split at h <;> simp_all

/-- A filter's result depends on `S'` only through the fields it keeps. -/
theorem cocoFilter_congr (S T S' : CocoState) (code : BitVec 32) (t : Word) (h1 : S.cfg = T.cfg)
    (h2 : S.prevCode = T.prevCode) (h3 : S.reps = T.reps) (h4 : S.lastHit = T.lastHit) :
    cocoFilter S S' code t = cocoFilter T S' code t := by
  simp [cocoFilter, h1, h2, h3, h4]

theorem kfsFilter_congr (S T S' : KfsState) (code : BitVec 24) (len : BitVec 5) (t : Word)
    (h1 : S.cfg = T.cfg) (h2 : S.prevCode = T.prevCode) (h3 : S.prevLen = T.prevLen)
    (h4 : S.reps = T.reps) (h5 : S.lastHit = T.lastHit) :
    kfsFilter S S' code len t = kfsFilter T S' code len t := by
  simp [kfsFilter, h1, h2, h3, h4, h5]

end Sys2Proof.Machine
end

