-- ==== Sys2Proof/Laws/Cycle.lean ====
section
/-! SUPPORT. What a cycle does, once: every operation answers a next state, a cycle is its operations one
after the other, and each operation writes only the part of the state that its slot owns (R66). -/

namespace Sys2Proof.Machine

/-! ### Every operation completes -/

/-- The state after one operation. -/
def applyOp (i : Instr) (s : State) : State :=
  match exec i s with
  | .next t => t
  | .fault _ => s
  | .refused _ => s

theorem exec_eq_applyOp (i : Instr) (s : State) : exec i s = .next (applyOp i s) := by
  cases i <;> try rfl
  by_cases h : s.pre.seq.busy <;> simp [applyOp, exec, execTxTick, h]

/-- The state after the operations of a cycle. -/
def applyOps (is : List Instr) (s : State) : State := is.foldl (fun s i => applyOp i s) s

theorem runOps_eq (is : List Instr) (s : State) : runOps is s = .next (applyOps is s) := by
  induction is generalizing s with
  | nil => rfl
  | cons i is ih => simp only [runOps, exec_eq_applyOp, ih]; rfl

theorem cycle_eq (c : CycleIn) (s : State) :
    cycle c s = .next (applyOps (decodeCycle s.blk.seq.busy c) s.openCycle) := runOps_eq _ _

@[simp] theorem applyOps_nil (s : State) : applyOps [] s = s := rfl
@[simp] theorem applyOps_cons (i : Instr) (is : List Instr) (s : State) :
    applyOps (i :: is) s = applyOps is (applyOp i s) := rfl
@[simp] theorem applyOps_append (is js : List Instr) (s : State) :
    applyOps (is ++ js) s = applyOps js (applyOps is s) := by
  simp [applyOps]

/-! ### What each operation gives -/

theorem applyOp_reset (s : State) : applyOp .reset s =
    { s with
      blk := .reset (freeCocoBuf s.freeCtr) (freeKfsBuf s.freeCtr)
      set := .none
      clr := .none
      busRdata := 0
      freeCtr := s.freeCtr + 1 } := rfl

/-- An edge and its accept event: the event sets the wire and the bit, and an absent one leaves them. -/
theorem applyOp_edgeCoco (ts : Word) (s : State) :
    let r := cocoEdge s.pre.coco s.blk.coco ts
    applyOp (.edgeCoco ts) s =
      { s with
        set := { s.set with cocoMsg := s.set.cocoMsg || r.2 }
        blk := { s.blk with
          coco := r.1
          st := { s.blk.st with cocoMsg := s.blk.st.cocoMsg || r.2 } } } := by
  simp only [applyOp, exec, execEdgeCoco]
  cases h : (cocoEdge s.pre.coco s.blk.coco ts).2 <;> simp [State.signalCocoMsg, State.setCoco]

theorem applyOp_edgeKfs (ts : Word) (s : State) :
    let r := kfsEdge s.pre.kfs s.blk.kfs ts
    applyOp (.edgeKfs ts) s =
      { s with
        set := { s.set with kfsMsg := s.set.kfsMsg || r.2 }
        blk := { s.blk with
          kfs := r.1
          st := { s.blk.st with kfsMsg := s.blk.st.kfsMsg || r.2 } } } := by
  simp only [applyOp, exec, execEdgeKfs]
  cases h : (kfsEdge s.pre.kfs s.blk.kfs ts).2 <;> simp [State.signalKfsMsg, State.setKfs]

theorem applyOp_txTick (s : State) (h : s.pre.seq.busy = true) :
    let r := seqTick s.params s.pre.seq s.blk.seq
    applyOp .txTick s =
      { s with
        set := { s.set with txDone := s.set.txDone || r.2 }
        blk := { s.blk with
          seq := r.1
          st := { s.blk.st with txDone := s.blk.st.txDone || r.2 } } } := by
  simp only [applyOp, exec, execTxTick, h, if_true]
  cases h : (seqTick s.params s.pre.seq s.blk.seq).2 <;> simp [State.signalTxDone, State.setSeq]

theorem applyOp_txTick_idle (s : State) (h : s.pre.seq.busy = false) : applyOp .txTick s = s := by
  simp [applyOp, exec, execTxTick, h]

theorem applyOp_nop (a : Addr) (s : State) : applyOp (.nop a) s = s := rfl
theorem applyOp_reserved (a : Addr) (s : State) : applyOp (.reserved a) s = s := rfl
theorem applyOp_wrIgnored (a : Addr) (d : Word) (s : State) : applyOp (.wrIgnored a d) s = s := rfl
theorem applyOp_rd (a : Addr) (s : State) : applyOp (.rd a) s = { s with busRdata := pack s.pre a } := rfl

/-- All that a bus operation can do (R66: "configuration registers, `irq_en`, `err_cause`, `tx.*`, `seq.*`
on a successful start only, `clr.*`, `set.cfg_err` and `set.tx_err`", and `bus_rdata`). -/
inductive BusEffect (s : State) (i : Instr) : State → Prop where
  /-- NOP, RESERVED, WR.IGNORED: nothing (R196, R197). -/
  | nothing (h : (∃ a, i = .nop a) ∨ (∃ a, i = .reserved a) ∨ (∃ a d, i = .wrIgnored a d)) : BusEffect s i s
  /-- RD: the read data (R180). -/
  | read (a : Addr) (h : i = .rd a) : BusEffect s i { s with busRdata := pack s.pre a }
  /-- WR STATUS: the clear wires and the merge (R182). -/
  | clear (d : Word) (h : i = .wrStatus d) : BusEffect s i (s.clearSticky (dClear d))
  /-- WR IRQ_EN (R183). -/
  | irqEn (d : Word) (h : i = .wrIrqEn d) : BusEffect s i (s.setIrqEn (dIrqEn d))
  /-- A COCO configuration write with legal data: the new configuration is legal if the old one is. -/
  | cocoCfg (c : DecoderCfg) (h : s.blk.coco.cfg.Legal → c.Legal) : BusEffect s i (s.setCocoCfg c)
  /-- A KFS configuration write with legal data. -/
  | kfsCfg (c : DecoderCfg) (h : s.blk.kfs.cfg.Legal → c.Legal) : BusEffect s i (s.setKfsCfg c)
  /-- An encoder configuration write with legal data, or a TX_CTRL write that only stores PROTO and PIN. -/
  | tx (t : TxCfg) (h : s.blk.tx.Legal → t.Legal) : BusEffect s i (s.setTx t)
  /-- A rejected write to a writable register (R212). -/
  | rejected (a : Addr) (d : Word) (code : BitVec 8) (h : encode i = some (.write a d))
      (ha : a ∈ writableAddrs) (h1 : 1 ≤ code.toNat) (h2 : code.toNat ≤ 6) :
      BusEffect s i (s.cfgRejected code)
  /-- A refused start (R165). -/
  | refused (d : Word) (t : TxCfg) (code : BitVec 8) (h : i = .wrTxCtrl d)
      (h1 : s.blk.tx.Legal → t.Legal) (h2 : code = 0x07 ∨ code = 0x08) :
    BusEffect s i ((s.setTx t).txRefused code)
  /-- A start (R165), possible only while the sequencer is idle. -/
  | start (d : Word) (t : TxCfg) (h : i = .wrTxCtrl d) (h1 : s.blk.tx.Legal → t.Legal)
      (h2 : s.pre.seq.busy = false) (h3 : dStart d = true) (h4 : 1 ≤ (dPin d).toNat)
      (h5 : (dPin d).toNat ≤ s.params.nTxPins) :
    BusEffect s i ((s.setTx t).setSeq (startSeq s.params s.pre.tx (dProto d) (dPin d)))

theorem wrTxCtrl_effect (d : Word) (s : State) :
    BusEffect s (.wrTxCtrl d) (applyOp (.wrTxCtrl d) s) := by
  have ht : s.blk.tx.Legal → ({ s.blk.tx with proto := dProto d, pin := dPin d } : TxCfg).Legal := id
  simp only [applyOp, exec, execWrTxCtrl, raiseTxError_eq]
  split
  · split
    · exact .refused d _ _ rfl ht (.inr rfl)
    · split
      · exact .refused d _ _ rfl ht (.inl rfl)
      · rename_i h1 h2 h3
        simp only [not_or, Nat.not_lt] at h3
        exact .start d _ rfl ht (by simpa using h2) h1 (by omega) h3.2
  · exact .tx _ ht

/-- All that a checked write can do, given the effect of its commit. -/
theorem checkedWrite_effect (s commit : State) (i : Instr) (ok : Bool) (c : CfgCause) (a : Addr)
    (d : Word) (he : encode i = some (.write a d)) (ha : a ∈ writableAddrs)
    (h : ok = true → BusEffect s i commit) : BusEffect s i (checkedWrite s ok c commit) := by
  obtain ⟨hok, hc⟩ | ⟨-, hc⟩ := checkedWrite_cases s commit ok c <;> rw [hc]
  · exact h hok
  · exact .rejected a d _ he ha (cfgCause_code_bounds c).1 (cfgCause_code_bounds c).2

theorem okUnit_pos (d : Word) (h : okUnit d = true) : 1 ≤ (dUnit d).toNat := by
  simp only [okUnit, Bool.and_eq_true, decide_eq_true_eq] at h
  exact h.2

theorem okTol_bounds (d : Word) (h : okTol d = true) :
    1 ≤ (dPos d).toNat ∧ (dPos d).toNat ≤ 100 ∧ 1 ≤ (dNeg d).toNat ∧ (dNeg d).toNat ≤ 100 := by
  simp only [okTol, okPercent, Bool.and_eq_true, decide_eq_true_eq] at h
  exact ⟨h.1.2.1, h.1.2.2, h.2.1, h.2.2⟩

theorem okKfsMsg_bounds (d : Word) (h : okKfsMsg d = true) :
    1 ≤ (dLen d).toNat ∧ (dLen d).toNat ≤ 24 := by
  simp only [okKfsMsg, Bool.and_eq_true, decide_eq_true_eq] at h
  exact ⟨h.1.2, h.2⟩

/-- What a bus operation does is one of the effects above. -/
theorem bus_effect (i : Instr) (s : State) (h : i.slot = .bus) : BusEffect s i (applyOp i s) := by
  cases i <;> simp only [Instr.slot, reduceCtorEq] at h
  case nop a => exact .nothing (.inl ⟨a, rfl⟩)
  case reserved a => exact .nothing (.inr (.inl ⟨a, rfl⟩))
  case wrIgnored a d => exact .nothing (.inr (.inr ⟨a, d, rfl⟩))
  case rd a => exact .read a rfl
  case wrStatus d => exact .clear d rfl
  case wrIrqEn d => exact .irqEn d rfl
  case wrTxCtrl d => exact wrTxCtrl_effect d s
  case wrCocoNominal d =>
    exact checkedWrite_effect _ _ _ _ _ _ d rfl (by decide) fun hok => .cocoCfg _ fun l => ⟨okUnit_pos d hok, l.2⟩
  case wrKfsNominal d =>
    exact checkedWrite_effect _ _ _ _ _ _ d rfl (by decide) fun hok => .kfsCfg _ fun l => ⟨okUnit_pos d hok, l.2⟩
  case wrCocoTol d => exact checkedWrite_effect _ _ _ _ _ _ d rfl (by decide) fun hok => .cocoCfg _ fun l => ⟨l.1, okTol_bounds d hok⟩
  case wrKfsTol d => exact checkedWrite_effect _ _ _ _ _ _ d rfl (by decide) fun hok => .kfsCfg _ fun l => ⟨l.1, okTol_bounds d hok⟩
  case wrCocoRepeat d => exact checkedWrite_effect _ _ _ _ _ _ d rfl (by decide) fun _ => .cocoCfg _ id
  case wrCocoRefract d => exact checkedWrite_effect _ _ _ _ _ _ d rfl (by decide) fun _ => .cocoCfg _ id
  case wrKfsRepeat d => exact checkedWrite_effect _ _ _ _ _ _ d rfl (by decide) fun _ => .kfsCfg _ id
  case wrKfsRefract d => exact checkedWrite_effect _ _ _ _ _ _ d rfl (by decide) fun _ => .kfsCfg _ id
  case wrTxCocoUnit d =>
    exact checkedWrite_effect _ _ _ _ _ _ d rfl (by decide) fun hok => .tx _ fun l => ⟨okUnit_pos d hok, l.2⟩
  case wrTxKfsUnit d =>
    exact checkedWrite_effect _ _ _ _ _ _ d rfl (by decide) fun hok => .tx _ fun l => ⟨l.1, okUnit_pos d hok, l.2.2⟩
  case wrTxCocoMsg d => exact checkedWrite_effect _ _ _ _ _ _ d rfl (by decide) fun _ => .tx _ id
  case wrTxKfsMsg d =>
    exact checkedWrite_effect _ _ _ _ _ _ d rfl (by decide) fun hok => .tx _ fun l => ⟨l.1, l.2.1, okKfsMsg_bounds d hok⟩

/-- The four slots and RESET: which operations stand in each. -/
theorem slot_cases (i : Instr) :
    i = .reset ∨ (∃ ts, i = .edgeCoco ts) ∨ (∃ ts, i = .edgeKfs ts) ∨ i = .txTick ∨ i.slot = .bus := by
  cases i <;> simp [Instr.slot]

/-! ### What each slot leaves alone (R66) -/

/-- The parts of a state that no operation but RESET writes. -/
theorem applyOp_frame (i : Instr) (s : State) :
    (applyOp i s).pre = s.pre ∧ (applyOp i s).params = s.params ∧ (applyOp i s).inputs = s.inputs
      ∧ (i ≠ .reset → (applyOp i s).freeCtr = s.freeCtr) := by
  obtain rfl | ⟨ts, rfl⟩ | ⟨ts, rfl⟩ | rfl | hs := slot_cases i
  · simp [applyOp_reset]
  · simp [applyOp_edgeCoco]
  · simp [applyOp_edgeKfs]
  · cases h : s.pre.seq.busy
    · simp [applyOp_txTick_idle s h]
    · simp [applyOp_txTick s h]
  · have h := bus_effect i s hs
    generalize applyOp i s = t at h ⊢
    cases h <;> simp [State.cfgRejected, State.txRefused]

/-- What a bus operation does to the COCO decoder: at most a new configuration, computed from the old. -/
theorem bus_coco (i : Instr) (h : i.slot = .bus) : ∃ f : DecoderCfg → DecoderCfg,
    ∀ s, (applyOp i s).blk.coco = { s.blk.coco with cfg := f s.blk.coco.cfg } := by
  cases i <;> simp only [Instr.slot, reduceCtorEq] at h
  case wrCocoNominal d =>
    refine ⟨fun c => if okUnit d then { c with nom := dUnit d } else c, fun s => ?_⟩
    cases hd : okUnit d <;> simp [applyOp, exec, execWrCocoNominal, checkedWrite, hd, State.raiseCfgError]
  case wrCocoTol d =>
    refine ⟨fun c => if okTol d then { c with pos := dPos d, neg := dNeg d } else c, fun s => ?_⟩
    cases hd : okTol d <;> simp [applyOp, exec, execWrCocoTol, checkedWrite, hd, State.raiseCfgError]
  case wrCocoRepeat d =>
    refine ⟨fun c => if okRep d then { c with rep := dRep d } else c, fun s => ?_⟩
    cases hd : okRep d <;> simp [applyOp, exec, execWrCocoRepeat, checkedWrite, hd, State.raiseCfgError]
  case wrCocoRefract d =>
    refine ⟨fun c => if okRef d then { c with ref := dRef d } else c, fun s => ?_⟩
    cases hd : okRef d <;> simp [applyOp, exec, execWrCocoRefract, checkedWrite, hd, State.raiseCfgError]
  case wrTxCtrl d =>
    refine ⟨id, fun s => ?_⟩
    simp only [applyOp, exec, execWrTxCtrl]
    split <;> (try split) <;> (try split) <;> simp [State.raiseTxError]
  all_goals
    refine ⟨id, fun s => ?_⟩
    simp only [applyOp, exec, execNop, execReserved, execRd, execWrStatus, execWrIrqEn, execWrIgnored,
      execWrKfsNominal, execWrKfsTol, execWrKfsRepeat, execWrKfsRefract, execWrTxCocoUnit,
      execWrTxKfsUnit, execWrTxCocoMsg, execWrTxKfsMsg, checkedWrite]
    first | rfl | (split <;> rfl)

/-- What a bus operation does to the KFS decoder. -/
theorem bus_kfs (i : Instr) (h : i.slot = .bus) : ∃ f : DecoderCfg → DecoderCfg,
    ∀ s, (applyOp i s).blk.kfs = { s.blk.kfs with cfg := f s.blk.kfs.cfg } := by
  cases i <;> simp only [Instr.slot, reduceCtorEq] at h
  case wrKfsNominal d =>
    refine ⟨fun c => if okUnit d then { c with nom := dUnit d } else c, fun s => ?_⟩
    cases hd : okUnit d <;> simp [applyOp, exec, execWrKfsNominal, checkedWrite, hd, State.raiseCfgError]
  case wrKfsTol d =>
    refine ⟨fun c => if okTol d then { c with pos := dPos d, neg := dNeg d } else c, fun s => ?_⟩
    cases hd : okTol d <;> simp [applyOp, exec, execWrKfsTol, checkedWrite, hd, State.raiseCfgError]
  case wrKfsRepeat d =>
    refine ⟨fun c => if okRep d then { c with rep := dRep d } else c, fun s => ?_⟩
    cases hd : okRep d <;> simp [applyOp, exec, execWrKfsRepeat, checkedWrite, hd, State.raiseCfgError]
  case wrKfsRefract d =>
    refine ⟨fun c => if okRef d then { c with ref := dRef d } else c, fun s => ?_⟩
    cases hd : okRef d <;> simp [applyOp, exec, execWrKfsRefract, checkedWrite, hd, State.raiseCfgError]
  case wrTxCtrl d =>
    refine ⟨id, fun s => ?_⟩
    simp only [applyOp, exec, execWrTxCtrl]
    split <;> (try split) <;> (try split) <;> simp [State.raiseTxError]
  all_goals
    refine ⟨id, fun s => ?_⟩
    simp only [applyOp, exec, execNop, execReserved, execRd, execWrStatus, execWrIrqEn, execWrIgnored,
      execWrCocoNominal, execWrCocoTol, execWrCocoRepeat, execWrCocoRefract, execWrTxCocoUnit,
      execWrTxKfsUnit, execWrTxCocoMsg, execWrTxKfsMsg, checkedWrite]
    first | rfl | (split <;> rfl)

/-! ### The sticky bits within a cycle (R69) -/

/-- The sticky bits of `S'` are R69's merge of those of `S` with the wires driven so far. -/
def State.Merged (s : State) : Prop := s.blk.st = Sticky.merge s.pre.st s.clr s.set

theorem openCycle_merged (s : State) : s.openCycle.Merged := by
  simp [State.Merged, State.openCycle, Sticky.merge, Sticky.none, mergeBit]

/-- Every operation but RESET keeps the sticky bits merged. -/
theorem applyOp_merged (i : Instr) (s : State) (hi : i ≠ .reset) (h : s.Merged) : (applyOp i s).Merged := by
  simp only [State.Merged] at h ⊢
  obtain rfl | ⟨ts, rfl⟩ | ⟨ts, rfl⟩ | rfl | hs := slot_cases i
  · exact absurd rfl hi
  · simp [applyOp_edgeCoco, h, Sticky.merge, mergeBit, Bool.or_assoc]
  · simp [applyOp_edgeKfs, h, Sticky.merge, mergeBit, Bool.or_assoc]
  · cases hb : s.pre.seq.busy
    · simp [applyOp_txTick_idle s hb, h]
    · simp [applyOp_txTick s hb, h, Sticky.merge, mergeBit, Bool.or_assoc]
  · have he := bus_effect i s hs
    generalize applyOp i s = t at he ⊢
    cases he <;> simp [State.cfgRejected, State.txRefused, h, Sticky.merge]

/-- The clear wires a bus operation drives: the mask of a WR STATUS. -/
theorem bus_clr (i : Instr) (s : State) (h : i.slot = .bus) :
    (∀ d, i = .wrStatus d → (applyOp i s).clr = dClear d)
      ∧ ((∀ d, i ≠ .wrStatus d) → (applyOp i s).clr = s.clr) := by
  refine ⟨fun d hd => by rw [hd]; rfl, fun hne => ?_⟩
  have he := bus_effect i s h
  generalize applyOp i s = t at he ⊢
  cases he with
  | clear d hd => exact absurd hd (hne d)
  | _ => rfl

/-! ### One whole cycle -/

/-- What the COCO slot of a cycle gives. -/
def cocoSlot (c : CycleIn) (s : State) : CocoState × Bool :=
  if c.cocoValid then cocoEdge s.blk.coco { s.blk.coco with strobe := false } c.t
  else ({ s.blk.coco with strobe := false }, false)

/-- What the KFS slot of a cycle gives. -/
def kfsSlot (c : CycleIn) (s : State) : KfsState × Bool :=
  if c.kfsValid then kfsEdge s.blk.kfs { s.blk.kfs with strobe := false } c.u
  else ({ s.blk.kfs with strobe := false }, false)

/-- What the tx slot of a cycle gives. -/
def txSlot (s : State) : Seq × Bool :=
  if s.blk.seq.busy then seqTick s.params s.blk.seq s.blk.seq else (s.blk.seq, false)

/-- The state of a cycle with R = 0 when its edge and tx slots have run and its bus slot has not. -/
def State.afterSlots (s : State) (c : CycleIn) : State :=
  { blk := { s.blk with
      coco := (cocoSlot c s).1
      kfs := (kfsSlot c s).1
      seq := (txSlot s).1
      st := { s.blk.st with
        cocoMsg := s.blk.st.cocoMsg || (cocoSlot c s).2
        kfsMsg := s.blk.st.kfsMsg || (kfsSlot c s).2
        txDone := s.blk.st.txDone || (txSlot s).2 } }
    pre := s.blk
    set := { Sticky.none with
      cocoMsg := (cocoSlot c s).2
      kfsMsg := (kfsSlot c s).2
      txDone := (txSlot s).2 }
    clr := .none
    busRdata := 0
    inputs := s.inputs.tail
    params := s.params
    freeCtr := s.freeCtr }

/-- A cycle with R = 0 is its bus operation after its edge and tx slots. -/
theorem cycle_of_running (c : CycleIn) (s : State) (h : c.rst = false) :
    cycle c s = .next (applyOp (decodeBus c) (s.afterSlots c)) := by
  rw [cycle_eq]
  simp only [decodeCycle, h]
  cases hc : c.cocoValid <;> cases hk : c.kfsValid <;> cases hb : s.blk.seq.busy <;>
    simp [State.afterSlots, cocoSlot, kfsSlot, txSlot, hc, hk, hb, State.openCycle, applyOp_edgeCoco,
      applyOp_edgeKfs, applyOp_txTick, Sticky.none]

theorem afterSlots_merged (c : CycleIn) (s : State) : (s.afterSlots c).Merged := by
  simp [State.Merged, State.afterSlots, Sticky.merge, Sticky.none, mergeBit]

/-- A cycle with R = 1 is RESET alone. -/
theorem cycle_of_reset (c : CycleIn) (s : State) (h : c.rst = true) :
    cycle c s = .next (applyOp .reset s.openCycle) := by
  rw [cycle_eq]; simp [decodeCycle, h]

end Sys2Proof.Machine
end

