-- ==== Sys2Proof/Laws/Decoders.lean ====
section
/-! SUPPORT. What one edge does to its decoder: which fields it writes whatever Analyze finds, and that
the fields a configuration write touches pass through it unread. -/

namespace Sys2Proof.Machine

/-! ### Accumulation (R117, R136) -/

theorem shiftIn_getLsbD {n : Nat} (c : BitVec n) (b : Bool) (i : Nat) (h : i < n) :
    (shiftIn c b).getLsbD i = if i = 0 then b else c.getLsbD (i - 1) := by
  cases i with
  | zero => cases b <;> simp [shiftIn, h]
  | succ i => cases b <;> simp [shiftIn] <;> omega

/-- While no bit is shifted out, a code doubles and takes the bit. -/
theorem shiftIn_toNat {n : Nat} (c : BitVec n) (b : Bool) (h : 2 * c.toNat + 1 < 2 ^ n) :
    (shiftIn c b).toNat = 2 * c.toNat + b.toNat := by
  have hb := b.toNat_le
  have h1 : c.toNat <<< 1 = 2 * c.toNat := by rw [Nat.shiftLeft_eq]; omega
  have h2 : ((BitVec.ofBool b).zeroExtend n).toNat = b.toNat := by
    simp only [BitVec.truncate_eq_setWidth, BitVec.toNat_setWidth, BitVec.toNat_ofBool]
    exact Nat.mod_eq_of_lt (by omega)
  simp only [shiftIn, BitVec.toNat_or, BitVec.toNat_shiftLeft, h1, h2]
  rw [Nat.mod_eq_of_lt (by omega)]
  exact (Nat.two_pow_add_eq_or_of_lt (i := 1) (by omega) c.toNat).symm

/-! ### Analyze -/

theorem cocoAnalyze_frame (S S' : CocoState) (B : Vector Dur Config.cocoBufDepth) (org : Word) :
    let r := cocoAnalyze S S' B org
    r.1.cfg = S'.cfg ∧ r.1.idx = S'.idx ∧ r.1.lastTs = S'.lastTs ∧ r.1.origin = S'.origin
      ∧ r.1.buf = S'.buf ∧ r.1.eff = cocoEff B
      ∧ (r.2 = false → r.1.strobe = S'.strobe)
      ∧ (r.2 = true → r.1.strobe = true ∧ r.1.reps = 0 ∧ r.1.msgTs = org ∧ r.1.lastHit = org
          ∧ cocoWalk S.cfg B = some r.1.msgCode ∧ r.1.msgCode = S.prevCode) := by
  unfold cocoAnalyze
  split
  · simp
  · rename_i code hw
    have h := cocoFilter_frame S { S' with eff := cocoEff B } code org
    simp only at h ⊢
    refine ⟨h.1, h.2.1, h.2.2.1, h.2.2.2.1, h.2.2.2.2.1, h.2.2.2.2.2.1, fun hr => (h.2.2.2.2.2.2.1 hr).1, ?_⟩
    intro hr
    obtain ⟨h1, h2, h3, h4, h5, h6, -⟩ := h.2.2.2.2.2.2.2 hr
    exact ⟨h1, h2, h3, h4, by rw [h5, hw], by rw [h5, h6]⟩

theorem kfsAnalyze_frame (S S' : KfsState) (B : Vector Dur Config.kfsBufDepth) (n : Nat) (org : Word) :
    let r := kfsAnalyze S S' B n org
    r.1.cfg = S'.cfg ∧ r.1.seen = S'.seen ∧ r.1.idx = S'.idx ∧ r.1.lastTs = S'.lastTs
      ∧ r.1.origin = S'.origin ∧ r.1.buf = S'.buf
      ∧ (r.2 = false → r.1.strobe = S'.strobe)
      ∧ (r.2 = true → r.1.strobe = true ∧ r.1.reps = 0 ∧ r.1.msgTs = org ∧ r.1.lastHit = org
          ∧ kfsValid (kfsWalk S.cfg B n) = true ∧ r.1.msgId = S.prevCode ∧ r.1.msgLen = S.prevLen) := by
  unfold kfsAnalyze
  simp only
  split
  · rename_i hv
    have h := kfsFilter_frame S S' (kfsWalk S.cfg B n).1 (BitVec.ofNat 5 (kfsWalk S.cfg B n).2) org
    simp only at h ⊢
    refine ⟨h.1, h.2.1, h.2.2.1, h.2.2.2.1, h.2.2.2.2.1, h.2.2.2.2.2.1, fun hr => (h.2.2.2.2.2.2.1 hr).1, ?_⟩
    intro hr
    obtain ⟨h1, h2, h3, h4, h5, h6, h7, h8⟩ := h.2.2.2.2.2.2.2 hr
    exact ⟨h1, h2, h3, h4, hv, by rw [h5, h7], by rw [h6, h8]⟩
  · simp

theorem kfsValid_iff (w : BitVec 24 × Nat) : kfsValid w = true ↔ w.1 ≠ 0 ∧ 5 ≤ w.2 := by
  simp [kfsValid]

theorem cocoStoreIdx_toNat (S : CocoState) (d : Dur) :
    (cocoStoreIdx S d).toNat = if isS S.cfg d then 0 else S.idx.toNat := by
  unfold cocoStoreIdx; split <;> rfl

/-! ### The edge step -/

/-- What every COCO edge writes, whether or not Analyze runs (R111, R112, R114). -/
theorem cocoEdge_frame (S S' : CocoState) (ts : Word) :
    let d := duration ts S.lastTs
    let i := cocoStoreIdx S d
    let r := cocoEdge S S' ts
    r.1.cfg = S'.cfg ∧ r.1.lastTs = ts ∧ r.1.origin = (if isS S.cfg d then ts else S'.origin)
      ∧ r.1.buf = bufWrite S'.buf i.toNat d ∧ r.1.idx = (if i.toNat = 130 then 0 else i + 1)
      ∧ (r.2 = false → r.1.strobe = S'.strobe)
      ∧ (r.2 = true → r.1.strobe = true ∧ r.1.reps = 0 ∧ r.1.msgTs = r.1.lastHit
          ∧ r.1.msgCode = S.prevCode) := by
  simp only [cocoEdge]
  split
  · have h := cocoAnalyze_frame S
      { S' with
        lastTs := ts
        origin := if isS S.cfg (duration ts S.lastTs) then ts else S'.origin
        buf := bufWrite S'.buf (cocoStoreIdx S (duration ts S.lastTs)).toNat (duration ts S.lastTs)
        idx := if (cocoStoreIdx S (duration ts S.lastTs)).toNat = cocoAnalyzeIndex then 0
          else cocoStoreIdx S (duration ts S.lastTs) + 1 }
      (bufWrite S.buf (cocoStoreIdx S (duration ts S.lastTs)).toNat (duration ts S.lastTs))
      (if isS S.cfg (duration ts S.lastTs) then ts else S.origin)
    simp only at h
    obtain ⟨h1, h2, h3, h4, h5, -, h6, h7⟩ := h
    refine ⟨h1, h3, h4, h5, h2, h6, fun hr => ?_⟩
    obtain ⟨a, b, c, d, -, e⟩ := h7 hr
    exact ⟨a, b, by rw [c, d], e⟩
  · exact ⟨rfl, rfl, rfl, rfl, rfl, fun _ => rfl, by simp⟩

/-- What every KFS edge writes (R130, R132 to R135). -/
theorem kfsEdge_frame (S S' : KfsState) (ts : Word) :
    let d := duration ts S.lastTs
    let sync := isKS S.cfg d
    let i : Nat := if sync then 0 else if S.idx.toNat = 67 then 0 else S.idx.toNat
    let r := kfsEdge S S' ts
    r.1.cfg = S'.cfg ∧ r.1.lastTs = ts
      ∧ (S.seen = false → r = ({ S' with seen := true, lastTs := ts }, false))
      ∧ (S.seen = true → r.1.seen = S'.seen ∧ r.1.origin = (if sync then ts else S'.origin)
          ∧ r.1.buf = bufWrite S'.buf i d ∧ r.1.idx = BitVec.ofNat 7 (i + 1))
      ∧ (r.2 = false → r.1.strobe = S'.strobe)
      ∧ (r.2 = true → r.1.strobe = true ∧ r.1.reps = 0 ∧ r.1.msgTs = r.1.lastHit
          ∧ r.1.msgId = S.prevCode ∧ r.1.msgLen = S.prevLen) := by
  intro d sync i r
  cases hs : S.seen
  · simp [r, kfsEdge, hs]
  · have hi : (if sync then 0 else if S.idx.toNat = Config.kfsBufDepth then 0 else S.idx : BitVec 7).toNat = i := by
      simp only [i]; split
      · rfl
      · split <;> rfl
    have hi1 : (if sync then 0 else if S.idx.toNat = Config.kfsBufDepth then 0 else S.idx : BitVec 7) + 1
        = BitVec.ofNat 7 (i + 1) := by
      rw [← hi]; apply BitVec.eq_of_toNat_eq; simp
    simp only [r, kfsEdge, hs, if_true, d, sync] at hi hi1 ⊢
    split
    · have h := kfsAnalyze_frame S S' S.buf S.idx.toNat S.origin
      simp only at h
      obtain ⟨h1, h2, h3, h4, h5, h6, h7, h8⟩ := h
      refine ⟨h1, trivial, by simp, fun _ => ⟨h2, by simp only [h5], by simp only [hi, h6], hi1⟩, h7, fun hr => ?_⟩
      obtain ⟨a, b, c, d, -, e, f⟩ := h8 hr
      exact ⟨a, b, by simp only [c, d], e, f⟩
    · simp only [hi]
      exact ⟨trivial, trivial, by simp, fun _ => ⟨trivial, trivial, trivial, hi1⟩, fun _ => trivial, by simp⟩

@[simp] theorem cocoEdge_cfg (S S' : CocoState) (ts : Word) : (cocoEdge S S' ts).1.cfg = S'.cfg :=
  (cocoEdge_frame S S' ts).1

@[simp] theorem kfsEdge_cfg (S S' : KfsState) (ts : Word) : (kfsEdge S S' ts).1.cfg = S'.cfg :=
  (kfsEdge_frame S S' ts).1

/-! ### Configuration passes through an edge -/

theorem cocoFilter_withCfg (S S' : CocoState) (c : DecoderCfg) (code : BitVec 32) (t : Word) :
    cocoFilter S { S' with cfg := c } code t
      = ({ (cocoFilter S S' code t).1 with cfg := c }, (cocoFilter S S' code t).2) := by
  simp only [cocoFilter]; split <;> rfl

theorem kfsFilter_withCfg (S S' : KfsState) (c : DecoderCfg) (code : BitVec 24) (len : BitVec 5) (t : Word) :
    kfsFilter S { S' with cfg := c } code len t
      = ({ (kfsFilter S S' code len t).1 with cfg := c }, (kfsFilter S S' code len t).2) := by
  simp only [kfsFilter]; split <;> rfl

theorem cocoAnalyze_withCfg (S S' : CocoState) (c : DecoderCfg) (B : Vector Dur Config.cocoBufDepth)
    (org : Word) :
    cocoAnalyze S { S' with cfg := c } B org
      = ({ (cocoAnalyze S S' B org).1 with cfg := c }, (cocoAnalyze S S' B org).2) := by
  simp only [cocoAnalyze]
  split
  · rfl
  · exact cocoFilter_withCfg S { S' with eff := cocoEff B } c _ _

theorem kfsAnalyze_withCfg (S S' : KfsState) (c : DecoderCfg) (B : Vector Dur Config.kfsBufDepth)
    (n : Nat) (org : Word) :
    kfsAnalyze S { S' with cfg := c } B n org
      = ({ (kfsAnalyze S S' B n org).1 with cfg := c }, (kfsAnalyze S S' B n org).2) := by
  simp only [kfsAnalyze]
  split
  · exact kfsFilter_withCfg S S' c _ _ _
  · rfl

/-- An edge reads no configuration but the pre-state's: one written to `S'` passes through (R68). -/
theorem cocoEdge_withCfg (S S' : CocoState) (c : DecoderCfg) (ts : Word) :
    cocoEdge S { S' with cfg := c } ts
      = ({ (cocoEdge S S' ts).1 with cfg := c }, (cocoEdge S S' ts).2) := by
  simp only [cocoEdge]
  split
  · exact cocoAnalyze_withCfg S { S' with
      lastTs := ts
      origin := _
      buf := _
      idx := _ } c _ _
  · rfl

theorem kfsEdge_withCfg (S S' : KfsState) (c : DecoderCfg) (ts : Word) :
    kfsEdge S { S' with cfg := c } ts
      = ({ (kfsEdge S S' ts).1 with cfg := c }, (kfsEdge S S' ts).2) := by
  simp only [kfsEdge]
  split
  · split <;> simp only [kfsAnalyze_withCfg]
  · rfl

end Sys2Proof.Machine
end

