-- ==== Sys2Proof/Laws/Encoder.lean ====
section
/-! SUPPORT. The mapper's sequences: their lengths, sums and elements (R160, R161), and what one sequencer
tick and one start do (R165, R166). -/

namespace Sys2Proof.Machine

/-! ### Lists made of blocks of one length -/

theorem flatMap_length_of_block {α : Type} (f : α → List Nat) (m : Nat) (hf : ∀ a, (f a).length = m)
    (l : List α) : (l.flatMap f).length = m * l.length := by
  induction l with
  | nil => simp
  | cons a l ih => simp [ih, hf, Nat.mul_add, Nat.add_comm]

theorem flatMap_sum_of_block {α : Type} (f : α → List Nat) (v : Nat) (hf : ∀ a, (f a).sum = v)
    (l : List α) : (l.flatMap f).sum = l.length * v := by
  induction l with
  | nil => simp
  | cons a l ih => simp [ih, hf, Nat.add_mul, Nat.add_comm]

/-- Element `j` of block `k`. -/
theorem flatMap_getD_of_block {α : Type} (f : α → List Nat) (m : Nat) (hf : ∀ a, (f a).length = m)
    (l : List α) (k j : Nat) (hk : k < l.length) (hj : j < m) :
    (l.flatMap f).getD (m * k + j) 0 = (f l[k]).getD j 0 := by
  induction l generalizing k with
  | nil => simp at hk
  | cons a l ih =>
    cases k with
    | zero => simp [List.getD_eq_getElem?_getD, List.getElem?_append, hf, hj]
    | succ k =>
      have h1 : m * (k + 1) + j - m = m * k + j := by rw [Nat.mul_add]; omega
      have h2 : ¬ (m * (k + 1) + j < m) := by rw [Nat.mul_add]; omega
      have := ih k (by simpa using hk)
      simp only [List.getD_eq_getElem?_getD] at this
      simp [List.getD_eq_getElem?_getD, List.getElem?_append, hf, h1, h2, this]

/-- Block `k` as a sublist. -/
theorem flatMap_drop_take_of_block {α : Type} (f : α → List Nat) (m : Nat) (hf : ∀ a, (f a).length = m)
    (l : List α) (k : Nat) (hk : k < l.length) : ((l.flatMap f).drop (m * k)).take m = f l[k] := by
  induction l generalizing k with
  | nil => simp at hk
  | cons a l ih =>
    cases k with
    | zero => simp [hf]
    | succ k =>
      have h : m * (k + 1) = (f a).length + m * k := by rw [hf]; ring
      rw [List.flatMap_cons, h, List.drop_append, List.drop_eq_nil_of_le (by omega)]
      simp [ih k (by simpa using hk)]

/-! ### The two sequences -/

@[simp] theorem cocoBitSeq_length (b : Bool) (u : Nat) : (cocoBitSeq b u).length = 4 := by
  cases b <;> rfl
@[simp] theorem kfsBitSeq_length (b : Bool) (u : Nat) : (kfsBitSeq b u).length = 2 := by
  cases b <;> rfl
theorem cocoBitSeq_sum (b : Bool) (u : Nat) : (cocoBitSeq b u).sum = 7 * u := by
  cases b <;> simp [cocoBitSeq, cocoLongUnits] <;> omega
theorem kfsBitSeq_sum (b : Bool) (u : Nat) : (kfsBitSeq b u).sum = 4 * u := by
  cases b <;> simp [kfsBitSeq, kfsLongUnits] <;> omega

/-- The 128 bit durations of a COCO sequence. -/
def cocoBits128 (c : BitVec 32) (u : Nat) : List Nat :=
  (List.range 32).flatMap (fun k => cocoBitSeq (c.getLsbD (31 - k)) u)

theorem cocoBits128_length (c : BitVec 32) (u : Nat) : (cocoBits128 c u).length = 128 := by
  rw [cocoBits128, flatMap_length_of_block _ 4 (by simp)]; simp

theorem cocoSeq_eq (c : BitVec 32) (u : Nat) :
    cocoSeq c u = [u, 10 * u] ++ (cocoBits128 c u ++ [u, 40 * u]) := by
  rw [← List.append_assoc]; rfl

theorem cocoSeq_length (c : BitVec 32) (u : Nat) : (cocoSeq c u).length = 132 := by
  simp [cocoSeq_eq, cocoBits128_length]

theorem cocoSeq_sum (c : BitVec 32) (u : Nat) : (cocoSeq c u).sum = 276 * u := by
  have h : (cocoBits128 c u).sum = 32 * (7 * u) := by
    rw [cocoBits128, flatMap_sum_of_block _ (7 * u) (fun _ => cocoBitSeq_sum _ _)]; simp
  simp [cocoSeq_eq, h]; omega

/-- Entry `2 + 4·k + j` is duration `j` of bit `31 − k` (R160). -/
theorem cocoSeq_getD_bit (c : BitVec 32) (u k j : Nat) (hk : k < 32) (hj : j < 4) :
    (cocoSeq c u).getD (2 + (4 * k + j)) 0 = (cocoBitSeq (c.getLsbD (31 - k)) u).getD j 0 := by
  have h := flatMap_getD_of_block (fun k => cocoBitSeq (c.getLsbD (31 - k)) u) 4 (by simp)
    (List.range 32) k j (by simpa using hk) hj
  have hl : 4 * k + j < (cocoBits128 c u).length := by rw [cocoBits128_length]; omega
  simp only [cocoBits128, List.getD_eq_getElem?_getD, List.getElem_range] at h hl ⊢
  rw [cocoSeq_eq, List.getElem?_append_right (by simp)]
  simp only [List.length_cons, List.length_nil, cocoBits128, Nat.add_sub_cancel_left]
  rw [List.getElem?_append_left hl, h]

theorem cocoSeq_getD_tail (c : BitVec 32) (u j : Nat) (hj : j < 2) :
    (cocoSeq c u).getD (130 + j) 0 = [u, 40 * u].getD j 0 := by
  have h : 130 + j = 2 + (128 + j) := by omega
  simp only [List.getD_eq_getElem?_getD]
  rw [cocoSeq_eq, List.getElem?_append_right (by simp; omega)]
  rw [List.getElem?_append_right (by rw [cocoBits128_length]; simp; omega)]
  simp [cocoBits128_length, h]

/-- The bit durations of a KFS sequence. -/
def kfsBitDurations (id : BitVec 32) (n u : Nat) : List Nat :=
  (List.range n).flatMap (fun k => kfsBitSeq (id.getLsbD (n - 1 - k)) u)

theorem kfsSeq_eq (id : BitVec 32) (n u : Nat) :
    kfsSeq id n u = [u, 31 * u] ++ kfsBitDurations id n u := rfl

theorem kfsBitDurations_length (id : BitVec 32) (n u : Nat) : (kfsBitDurations id n u).length = 2 * n := by
  rw [kfsBitDurations, flatMap_length_of_block _ 2 (by simp)]; simp

theorem kfsSeq_length (id : BitVec 32) (n u : Nat) : (kfsSeq id n u).length = 2 + 2 * n := by
  simp [kfsSeq_eq, kfsBitDurations_length]; omega

theorem kfsSeq_sum (id : BitVec 32) (n u : Nat) : (kfsSeq id n u).sum = (32 + 4 * n) * u := by
  have h : (kfsBitDurations id n u).sum = n * (4 * u) := by
    rw [kfsBitDurations, flatMap_sum_of_block _ (4 * u) (fun _ => kfsBitSeq_sum _ _)]; simp
  simp [kfsSeq_eq, h]; ring

/-- Entry `2 + 2·k + j` is duration `j` of bit `n − 1 − k` (R161). -/
theorem kfsSeq_getD_bit (id : BitVec 32) (n u k j : Nat) (hk : k < n) (hj : j < 2) :
    (kfsSeq id n u).getD (2 + (2 * k + j)) 0 = (kfsBitSeq (id.getLsbD (n - 1 - k)) u).getD j 0 := by
  have h := flatMap_getD_of_block (fun k => kfsBitSeq (id.getLsbD (n - 1 - k)) u) 2 (by simp)
    (List.range n) k j (by simpa using hk) hj
  simp only [List.getD_eq_getElem?_getD, List.getElem_range] at h ⊢
  rw [kfsSeq_eq, List.getElem?_append_right (by simp)]
  simp only [List.length_cons, List.length_nil, Nat.add_sub_cancel_left, kfsBitDurations]
  rw [h]

/-! ### The sequence of a latched message (R166) -/

theorem durations_length (q : Seq) : q.durations.length = q.seqLen := by
  unfold Seq.durations Seq.seqLen
  split
  · simp [cocoSeq_length, cocoTxLen]
  · simp [kfsSeq_length]

/-- Every duration of a sequence is a whole number of units, from 1 to 40. -/
theorem durations_mem (q : Seq) (x : Nat) (h : x ∈ q.durations) :
    ∃ m, 1 ≤ m ∧ m ≤ 40 ∧ x = m * q.unit.toNat := by
  have key : ∀ l : List Nat, (∀ m ∈ l, 1 ≤ m ∧ m ≤ 40) → x ∈ l.map (· * q.unit.toNat) →
      ∃ m, 1 ≤ m ∧ m ≤ 40 ∧ x = m * q.unit.toNat := by
    intro l hl hx
    obtain ⟨m, hm, rfl⟩ := List.mem_map.1 hx
    exact ⟨m, (hl m hm).1, (hl m hm).2, rfl⟩
  unfold Seq.durations at h
  split at h
  · simp only [cocoSeq, List.mem_append, List.mem_flatMap] at h
    obtain (h | ⟨k, -, h⟩) | h := h
    · exact key [1, 10] (by simp) (by simpa [cocoStartUnits] using h)
    · cases hb : q.msg.getLsbD (cocoBits - 1 - k) <;> simp only [cocoBitSeq, hb] at h
      · exact key [1, 1, 1, 4] (by simp) (by simpa [cocoLongUnits] using h)
      · exact key [1, 4, 1, 1] (by simp) (by simpa [cocoLongUnits] using h)
    · exact key [1, 40] (by simp) (by simpa [cocoEndUnits] using h)
  · simp only [kfsSeq, List.mem_append, List.mem_flatMap] at h
    obtain h | ⟨k, -, h⟩ := h
    · exact key [1, 31] (by simp) (by simpa [kfsSyncUnits] using h)
    · cases hb : q.msg.getLsbD (q.len.toNat - 1 - k) <;> simp only [kfsBitSeq, hb] at h
      · exact key [1, 3] (by simp) (by simpa [kfsLongUnits] using h)
      · exact key [3, 1] (by simp) (by simpa [kfsLongUnits] using h)

theorem durationAt_mem (q : Seq) (i : Nat) (h : i < q.seqLen) : q.durationAt i ∈ q.durations := by
  rw [← durations_length] at h
  simp [Seq.durationAt, List.getD_eq_getElem?_getD, h]

theorem durationAt_zero (q : Seq) : q.durationAt 0 = q.unit.toNat := by
  unfold Seq.durationAt Seq.durations
  split <;> simp [cocoSeq, kfsSeq]

/-- With a unit of at least 1, every duration lasts between 1 and 40·65535 microseconds. -/
theorem durationAt_bounds (q : Seq) (i : Nat) (h : i < q.seqLen) (hu : 1 ≤ q.unit.toNat) :
    1 ≤ q.durationAt i ∧ q.durationAt i ≤ 40 * 65535 := by
  obtain ⟨m, h1, h2, h3⟩ := durations_mem q _ (durationAt_mem q i h)
  rw [h3]
  have := q.unit.isLt
  exact ⟨Nat.mul_pos h1 hu, Nat.mul_le_mul h2 (by omega)⟩

theorem cycleCount_durationAt (p : Config.Params) (q : Seq) (i : Nat) (hp : ParamsLegal p)
    (h : i < q.seqLen) (hu : 1 ≤ q.unit.toNat) :
    (cycleCount p (q.durationAt i)).toNat = q.durationAt i * p.cyclesPerUs
      ∧ 1 ≤ (cycleCount p (q.durationAt i)).toNat := by
  obtain ⟨h1, h2⟩ := durationAt_bounds q i h hu
  rw [cycleCount_of_legal p _ hp h2]
  exact ⟨rfl, Nat.mul_pos h1 hp.1⟩

/-- A legal message has at least one duration. -/
theorem seqLen_pos (q : Seq) : 0 < q.seqLen := by
  unfold Seq.seqLen; split <;> simp [cocoTxLen]

theorem repeats_pos (p : Proto) : 0 < p.repeats := by cases p <;> decide

theorem seqLen_le (q : Seq) (h : q.proto = .kfs → q.len.toNat ≤ 24) : q.seqLen ≤ 132 := by
  unfold Seq.seqLen; split
  · simp [cocoTxLen]
  · rename_i hk; have := h hk; omega

theorem repeats_le (p : Proto) : p.repeats ≤ 16 := by cases p <;> decide

/-! ### One tick (R166, R167) -/

/-- All that a tick can do. -/
theorem seqTick_cases (p : Config.Params) (S S' : Seq) :
    (1 < S.cnt.toNat ∧ seqTick p S S' = ({ S' with cnt := S.cnt - 1 }, false))
    ∨ (S.cnt.toNat ≤ 1 ∧ S.idx.toNat + 1 < S.seqLen ∧ seqTick p S S'
        = ({ S' with idx := S.idx + 1, cnt := cycleCount p (S.durationAt (S.idx.toNat + 1)) }, false))
    ∨ (S.cnt.toNat ≤ 1 ∧ S.seqLen ≤ S.idx.toNat + 1 ∧ S.rep.toNat + 1 < S.proto.repeats ∧ seqTick p S S'
        = ({ S' with rep := S.rep + 1, idx := 0, cnt := cycleCount p (S.durationAt 0) }, false))
    ∨ (S.cnt.toNat ≤ 1 ∧ S.seqLen ≤ S.idx.toNat + 1 ∧ S.proto.repeats ≤ S.rep.toNat + 1 ∧ seqTick p S S'
        = ({ S' with busy := false, idx := 0, rep := 0, cnt := 0 }, true)) := by
  unfold seqTick
  split
  · exact .inl ⟨‹_›, rfl⟩
  · split
    · exact .inr (.inl ⟨by omega, ‹_›, rfl⟩)
    · split
      · exact .inr (.inr (.inl ⟨by omega, by omega, ‹_›, rfl⟩))
      · exact .inr (.inr (.inr ⟨by omega, by omega, by omega, rfl⟩))

/-- A tick completes exactly when it clears `busy`. -/
theorem seqTick_busy (p : Config.Params) (S S' : Seq) (h : S'.busy = true) :
    (seqTick p S S').2 = !(seqTick p S S').1.busy := by
  obtain ⟨-, h1⟩ | ⟨-, -, h1⟩ | ⟨-, -, -, h1⟩ | ⟨-, -, -, h1⟩ := seqTick_cases p S S' <;> simp [h1, h]

/-- A tick keeps the sequencer's invariant (R57). -/
theorem seqTick_inv (p : Config.Params) (S : Seq) (hp : ParamsLegal p) (hi : S.Inv p)
    (hb : S.busy = true) : (seqTick p S S).1.Inv p := by
  obtain ⟨h1, h2, h3, h4⟩ := hi.2 hb
  obtain ⟨hu, hlen, -, -⟩ := id h4
  have hl := seqLen_le S (fun h => (hlen h).2)
  have hr := repeats_le S.proto
  obtain ⟨hc, h⟩ | ⟨-, hx, h⟩ | ⟨-, -, hx, h⟩ | ⟨-, -, -, h⟩ := seqTick_cases p S S <;> rw [h]
  · refine ⟨by simp [hb], fun _ => ⟨?_, h2, h3, h4⟩⟩
    have := S.cnt.isLt
    simp only [BitVec.toNat_sub]; simp; omega
  · refine ⟨by simp [hb], fun _ => ⟨(cycleCount_durationAt p S _ hp hx hu).2, ?_, h3, h4⟩⟩
    have : (S.idx + 1).toNat = S.idx.toNat + 1 := by simp; omega
    simp only [this]; exact hx
  · refine ⟨by simp [hb], fun _ => ⟨(cycleCount_durationAt p S 0 hp (seqLen_pos S) hu).2, seqLen_pos S, ?_, h4⟩⟩
    have : (S.rep + 1).toNat = S.rep.toNat + 1 := by simp; omega
    simp only [this]; exact hx
  · exact ⟨by simp, by simp⟩

/-- A start gives a sequencer that keeps the invariant. -/
theorem startSeq_inv (p : Config.Params) (tx : TxCfg) (proto : Proto) (pin : BitVec 4)
    (hp : ParamsLegal p) (ht : tx.Legal) (h1 : 1 ≤ pin.toNat) (h2 : pin.toNat ≤ p.nTxPins) :
    (startSeq p tx proto pin).Inv p := by
  obtain ⟨hc, hk, hl1, hl2⟩ := ht
  have b1 := tx.cocoUnit.isLt
  have b2 := tx.kfsUnit.isLt
  cases proto <;> refine ⟨by simp [startSeq], fun _ => ⟨?_, ?_, ?_, ?_, ?_, h1, h2⟩⟩ <;>
    simp only [startSeq, Seq.seqLen, Proto.repeats, cocoTxLen, cocoTxRepeats, kfsTxRepeats] <;>
    first
    | (rw [cycleCount_of_legal p _ hp (by omega)]; exact Nat.mul_pos ‹_› hp.1)
    | simp_all

end Sys2Proof.Machine
end

