-- ==== Sys2Proof/Laws/Decode.lean ====
section
/-! SUPPORT. The header's fields taken apart and put together (R80), and the bus slot of what `encode`
writes (R81, R85). -/

namespace Sys2Proof

theorem busHeader_fields (op : BitVec 2) (a : Addr) :
    (busHeader op a).getLsbD 12 = false ∧ (busHeader op a).getLsbD 11 = false
      ∧ (busHeader op a).getLsbD 10 = false ∧ (busHeader op a).extractLsb' 8 2 = op
      ∧ (busHeader op a).extractLsb' 0 8 = a := by
  refine ⟨?_, ?_, ?_, ?_, ?_⟩ <;> revert op a <;> decide +kernel

/-- A header is its flags and its bus part. -/
theorem header_split (h : Header) (h12 : h.getLsbD 12 = false) :
    (if h.getLsbD 10 then (0x0400 : Header) else 0) ||| ((if h.getLsbD 11 then (0x0800 : Header) else 0)
      ||| busHeader (h.extractLsb' 8 2) (h.extractLsb' 0 8)) = h := by
  revert h; decide +kernel

/-- The bus part of a header does not see the flags beside it, nor they it. -/
theorem header_join (op : BitVec 2) (a : Addr) (cv kv : Bool) :
    let h : Header := (if cv then (0x0400 : Header) else 0) ||| ((if kv then (0x0800 : Header) else 0)
      ||| busHeader op a)
    h.getLsbD 12 = false ∧ h.getLsbD 11 = kv ∧ h.getLsbD 10 = cv ∧ h.extractLsb' 8 2 = op
      ∧ h.extractLsb' 0 8 = a := by
  refine ⟨?_, ?_, ?_, ?_, ?_⟩ <;> revert op a cv kv <;> decide +kernel

/-- A property of a conditional, from its two branches. -/
theorem of_ite {α : Type} (P : α → Prop) {p : Prop} [Decidable p] {x y : α} (hx : p → P x)
    (hy : ¬ p → P y) : P (if p then x else y) := by
  by_cases h : p
  · rw [if_pos h]; exact hx h
  · rw [if_neg h]; exact hy h

theorem encode_reset : encode .reset = some { CycleIn.idle with h := 0x1000 } := rfl
theorem encode_edgeCoco (ts : Word) :
    encode (.edgeCoco ts) = some { CycleIn.idle with h := 0x0400, t := ts } := rfl
theorem encode_edgeKfs (ts : Word) :
    encode (.edgeKfs ts) = some { CycleIn.idle with h := 0x0800, u := ts } := rfl

/-- Every write row is the row of its address. -/
theorem encode_decodeWrite (a : Addr) (d : Word) : encode (decodeWrite a d) = some (.write a d) := by
  unfold decodeWrite
  iterate 15 refine of_ite (fun i => encode i = _) (fun h => by rw [h]; rfl) fun _ => ?_
  rfl

theorem decodeWrite_wellFormed (a : Addr) (d : Word) :
    (decodeWrite a d).WellFormed = true ∧ (decodeWrite a d).slot = .bus := by
  unfold decodeWrite
  iterate 15 refine of_ite (fun i : Instr => i.WellFormed = true ∧ i.slot = .bus) (fun _ => ⟨rfl, rfl⟩) fun _ => ?_
  refine ⟨?_, rfl⟩
  simp only [Instr.WellFormed, writableAddrs, List.contains_eq_mem, List.mem_cons, List.not_mem_nil,
    Bool.not_eq_true', decide_eq_false_iff_not, or_false, not_or]
  exact ⟨‹_›, ‹_›, ‹_›, ‹_›, ‹_›, ‹_›, ‹_›, ‹_›, ‹_›, ‹_›, ‹_›, ‹_›, ‹_›, ‹_›, ‹_›⟩

/-- The bus slot, encoded again, is the bus part of the header and the data that is read. -/
theorem encode_decodeBus (c : CycleIn) : encode (decodeBus c)
    = some { CycleIn.idle with h := busHeader c.op c.addr, d := if c.op = 1 then c.d else 0 } := by
  have h4 : ∀ op : BitVec 2, op = 0 ∨ op = 1 ∨ op = 2 ∨ op = 3 := by decide
  unfold decodeBus
  obtain h | h | h | h := h4 c.op
  · rw [h]; rfl
  · rw [h, if_neg (by decide), if_pos rfl, encode_decodeWrite]; rfl
  · rw [h]; rfl
  · rw [h]; rfl

/-- A cycle whose bus operation is a write has OP = 01, that address and that data. -/
theorem decodeBus_write (c : CycleIn) (a : Addr) (d : Word)
    (h : encode (decodeBus c) = some (.write a d)) : c.op = 1 ∧ c.addr = a ∧ c.d = d := by
  rw [encode_decodeBus] at h
  simp only [CycleIn.write, Option.some.injEq, CycleIn.mk.injEq] at h
  have f := busHeader_fields c.op c.addr
  have g := busHeader_fields 1 a
  rw [h.1] at f
  have hop : c.op = 1 := f.2.2.2.1.symm.trans g.2.2.2.1
  refine ⟨hop, f.2.2.2.2.symm.trans g.2.2.2.2, ?_⟩
  have := h.2.2.2
  rwa [if_pos hop] at this

theorem decodeBus_wellFormed (c : CycleIn) :
    (decodeBus c).WellFormed = true ∧ (decodeBus c).slot = .bus := by
  unfold decodeBus
  split
  · exact ⟨rfl, rfl⟩
  · split
    · exact decodeWrite_wellFormed _ _
    · split <;> exact ⟨rfl, rfl⟩

/-- What `encode` writes for a bus operation: a bus part of the header, and its data. -/
theorem encode_bus (i : Instr) (h : i.slot = .bus) :
    ∃ op a d, encode i = some { CycleIn.idle with h := busHeader op a, d := d } := by
  cases i <;> simp only [Instr.slot, reduceCtorEq] at h <;> exact ⟨_, _, _, rfl⟩

/-- The bus slot of an encoded bus operation is the operation, whatever the flags beside it are. -/
theorem decodeBus_of_encode (i : Instr) (hw : i.WellFormed = true) (op : BitVec 2) (a : Addr) (d : Word)
    (h : encode i = some { CycleIn.idle with h := busHeader op a, d := d }) (hs : i.slot = .bus)
    (c : CycleIn) (hop : c.op = op) (ha : c.addr = a) (hd : c.d = d) : decodeBus c = i := by
  have key : ∀ op' a', busHeader op a = busHeader op' a' → op = op' ∧ a = a' := by
    intro op' a' he
    have h1 := busHeader_fields op a
    have h2 := busHeader_fields op' a'
    rw [he] at h1
    exact ⟨h1.2.2.2.1.symm.trans h2.2.2.2.1, h1.2.2.2.2.symm.trans h2.2.2.2.2⟩
  cases i <;> simp only [Instr.slot, reduceCtorEq] at hs <;>
    simp only [encode, CycleIn.write, Option.some.injEq, CycleIn.mk.injEq] at h <;>
    obtain ⟨rfl, rfl⟩ := key _ _ h.1.symm <;>
    simp_all [decodeBus, decodeWrite, Instr.WellFormed, writableAddrs, CycleIn.idle]

/-- The inputs of a cycle whose bus slot is encoded and whose edge slots are on or off. -/
theorem encodeAll_slots (cv kv : Bool) (t u : Word) (i : Instr) (op : BitVec 2) (a : Addr) (d : Word)
    (e : encode i = some { CycleIn.idle with h := busHeader op a, d := d }) :
    encodeAll ((if cv then [.edgeCoco t] else []) ++ (if kv then [.edgeKfs u] else []) ++ [i])
      = { h := (if cv then (0x0400 : Header) else 0) ||| ((if kv then (0x0800 : Header) else 0)
            ||| busHeader op a)
          t := if cv then t else 0
          u := if kv then u else 0
          d := d } := by
  cases cv <;> cases kv <;>
    simp [encodeAll, e, CycleIn.both, CycleIn.idle, encode_edgeCoco, encode_edgeKfs]

end Sys2Proof
end

