-- ==== Sys2Proof/Laws/PerInstr.lean ====
section
/-! SUPPORT. One lemma per instruction: its encoding has the bits of its row of spec/opcode_table.json,
and carries its operands where the row says. -/

namespace Sys2Proof.Laws

/-- The `mask` and `match` columns of each row of the table; TX.TICK's row is internal and has none. -/
def rowBits : Instr → Option (Header × Header)
  | .reset => some (0x1000, 0x1000)
  | .edgeCoco _ => some (0x1400, 0x0400)
  | .edgeKfs _ => some (0x1800, 0x0800)
  | .nop _ => some (0x1300, 0x0000)
  | .reserved _ => some (0x1300, 0x0300)
  | .rd _ => some (0x1300, 0x0200)
  | .wrStatus _ => some (0x13FF, 0x0100)
  | .wrIrqEn _ => some (0x13FF, 0x0101)
  | .wrCocoNominal _ => some (0x13FF, 0x0110)
  | .wrCocoTol _ => some (0x13FF, 0x0111)
  | .wrCocoRepeat _ => some (0x13FF, 0x0112)
  | .wrCocoRefract _ => some (0x13FF, 0x0113)
  | .wrKfsNominal _ => some (0x13FF, 0x0130)
  | .wrKfsTol _ => some (0x13FF, 0x0131)
  | .wrKfsRepeat _ => some (0x13FF, 0x0132)
  | .wrKfsRefract _ => some (0x13FF, 0x0133)
  | .wrTxCtrl _ => some (0x13FF, 0x0150)
  | .wrTxCocoUnit _ => some (0x13FF, 0x0151)
  | .wrTxKfsUnit _ => some (0x13FF, 0x0152)
  | .wrTxCocoMsg _ => some (0x13FF, 0x0153)
  | .wrTxKfsMsg _ => some (0x13FF, 0x0154)
  | .wrIgnored _ _ => some (0x1300, 0x0100)
  | .txTick => none

/-- The operands of each row, as the ports of a cycle carry them: the address bits of the header where the
row has an A, and T, U and D. -/
def rowOperands (c : CycleIn) : Instr → Prop
  | .reset | .txTick => True
  | .edgeCoco ts => c.t = ts
  | .edgeKfs ts => c.u = ts
  | .nop a | .reserved a | .rd a => c.addr = a
  | .wrStatus d | .wrIrqEn d | .wrCocoNominal d | .wrCocoTol d | .wrCocoRepeat d | .wrCocoRefract d
  | .wrKfsNominal d | .wrKfsTol d | .wrKfsRepeat d | .wrKfsRefract d | .wrTxCtrl d | .wrTxCocoUnit d
  | .wrTxKfsUnit d | .wrTxCocoMsg d | .wrTxKfsMsg d => c.d = d
  | .wrIgnored a d => c.addr = a ∧ c.d = d

/-- R85, R91: the instruction's encoding matches its row and carries its operands; one with no row bits
has no encoding. -/
def RowEncoding.Statement (i : Instr) : Prop :=
  match rowBits i with
  | none => encode i = none
  | some (mask, bits) => ∃ c, encode i = some c ∧ c.h &&& mask = bits ∧ rowOperands c i

theorem RowEncoding.reset : RowEncoding.Statement .reset :=
  ⟨_, rfl, by decide, trivial⟩
theorem RowEncoding.edgeCoco (ts : Word) : RowEncoding.Statement (.edgeCoco ts) :=
  ⟨_, rfl, show (0x0400 : Header) &&& 0x1400 = 0x0400 by decide, rfl⟩
theorem RowEncoding.edgeKfs (ts : Word) : RowEncoding.Statement (.edgeKfs ts) :=
  ⟨_, rfl, show (0x0800 : Header) &&& 0x1800 = 0x0800 by decide, rfl⟩
theorem RowEncoding.nop (a : Addr) : RowEncoding.Statement (.nop a) :=
  ⟨_, rfl, by revert a; decide +kernel, (busHeader_fields 0 a).2.2.2.2⟩
theorem RowEncoding.reserved (a : Addr) : RowEncoding.Statement (.reserved a) :=
  ⟨_, rfl, by revert a; decide +kernel, (busHeader_fields 3 a).2.2.2.2⟩
theorem RowEncoding.rd (a : Addr) : RowEncoding.Statement (.rd a) :=
  ⟨_, rfl, by revert a; decide +kernel, (busHeader_fields 2 a).2.2.2.2⟩
theorem RowEncoding.wrStatus (d : Word) : RowEncoding.Statement (.wrStatus d) :=
  ⟨_, rfl, show busHeader 1 0x00 &&& 0x13FF = 0x0100 by decide, rfl⟩
theorem RowEncoding.wrIrqEn (d : Word) : RowEncoding.Statement (.wrIrqEn d) :=
  ⟨_, rfl, show busHeader 1 0x01 &&& 0x13FF = 0x0101 by decide, rfl⟩
theorem RowEncoding.wrCocoNominal (d : Word) : RowEncoding.Statement (.wrCocoNominal d) :=
  ⟨_, rfl, show busHeader 1 0x10 &&& 0x13FF = 0x0110 by decide, rfl⟩
theorem RowEncoding.wrCocoTol (d : Word) : RowEncoding.Statement (.wrCocoTol d) :=
  ⟨_, rfl, show busHeader 1 0x11 &&& 0x13FF = 0x0111 by decide, rfl⟩
theorem RowEncoding.wrCocoRepeat (d : Word) : RowEncoding.Statement (.wrCocoRepeat d) :=
  ⟨_, rfl, show busHeader 1 0x12 &&& 0x13FF = 0x0112 by decide, rfl⟩
theorem RowEncoding.wrCocoRefract (d : Word) : RowEncoding.Statement (.wrCocoRefract d) :=
  ⟨_, rfl, show busHeader 1 0x13 &&& 0x13FF = 0x0113 by decide, rfl⟩
theorem RowEncoding.wrKfsNominal (d : Word) : RowEncoding.Statement (.wrKfsNominal d) :=
  ⟨_, rfl, show busHeader 1 0x30 &&& 0x13FF = 0x0130 by decide, rfl⟩
theorem RowEncoding.wrKfsTol (d : Word) : RowEncoding.Statement (.wrKfsTol d) :=
  ⟨_, rfl, show busHeader 1 0x31 &&& 0x13FF = 0x0131 by decide, rfl⟩
theorem RowEncoding.wrKfsRepeat (d : Word) : RowEncoding.Statement (.wrKfsRepeat d) :=
  ⟨_, rfl, show busHeader 1 0x32 &&& 0x13FF = 0x0132 by decide, rfl⟩
theorem RowEncoding.wrKfsRefract (d : Word) : RowEncoding.Statement (.wrKfsRefract d) :=
  ⟨_, rfl, show busHeader 1 0x33 &&& 0x13FF = 0x0133 by decide, rfl⟩
theorem RowEncoding.wrTxCtrl (d : Word) : RowEncoding.Statement (.wrTxCtrl d) :=
  ⟨_, rfl, show busHeader 1 0x50 &&& 0x13FF = 0x0150 by decide, rfl⟩
theorem RowEncoding.wrTxCocoUnit (d : Word) : RowEncoding.Statement (.wrTxCocoUnit d) :=
  ⟨_, rfl, show busHeader 1 0x51 &&& 0x13FF = 0x0151 by decide, rfl⟩
theorem RowEncoding.wrTxKfsUnit (d : Word) : RowEncoding.Statement (.wrTxKfsUnit d) :=
  ⟨_, rfl, show busHeader 1 0x52 &&& 0x13FF = 0x0152 by decide, rfl⟩
theorem RowEncoding.wrTxCocoMsg (d : Word) : RowEncoding.Statement (.wrTxCocoMsg d) :=
  ⟨_, rfl, show busHeader 1 0x53 &&& 0x13FF = 0x0153 by decide, rfl⟩
theorem RowEncoding.wrTxKfsMsg (d : Word) : RowEncoding.Statement (.wrTxKfsMsg d) :=
  ⟨_, rfl, show busHeader 1 0x54 &&& 0x13FF = 0x0154 by decide, rfl⟩
theorem RowEncoding.wrIgnored (a : Addr) (d : Word) : RowEncoding.Statement (.wrIgnored a d) :=
  ⟨_, rfl, show busHeader 1 a &&& 0x1300 = 0x0100 by revert a; decide +kernel, (busHeader_fields 1 a).2.2.2.2, rfl⟩
theorem RowEncoding.txTick : RowEncoding.Statement .txTick :=
  rfl

end Sys2Proof.Laws
end

