-- ==== Sys2Proof/Machine/Script.lean ====
section
/-! DEFINITION. Scripts: the textual form of a sequence of cycles (30_encoding.md R91 to R93). A script
has no hardware meaning (decision D44); this file says which cycle inputs and parameters it stands for.
What R91 to R93 leave open of the text is fixed in assumption log 16 (DESIGN CHOICE). -/

namespace Sys2Proof.Machine

/-- Why a text is no script (R91 to R93). -/
inductive ScriptError where
  | badNumber
  | valueTooWide
  | unknownRegister
  | unknownSlot
  | unknownParam
  /-- a `.param` value outside R11's range -/
  | paramOutOfRange
  /-- more than one slot of a kind, or RESET beside another slot (R91) -/
  | slotsClash
  /-- DUR.BOTH while the two port cursors differ (R92) -/
  | cursorsDiffer
  /-- `.rep` without `.endr`, or the other way round (R93) -/
  | unbalancedRep
  deriving DecidableEq, Repr

/-- A slot of a script line (R91). -/
inductive ScriptSlot where
  | reset
  | nop
  | wr (reg : Addr) (value : Word)
  | rd (reg : Addr)
  | edgeCoco (ts : Word)
  | edgeKfs (ts : Word)
  deriving DecidableEq, Repr

/-- One `||`-separated item of a line: a slot, or a pseudo-instruction that expands to slots of its own
cycle (R92). -/
inductive ScriptItem where
  | slot (s : ScriptSlot)
  | durCoco (d : Nat)
  | durKfs (d : Nat)
  | durBoth (d : Nat)
  deriving DecidableEq, Repr

/-- A script line: a cycle, a pseudo-instruction of several cycles (R92), or a directive (R93). -/
inductive ScriptLine where
  | items (is : List ScriptItem)
  | wait (n : Nat)
  | frameCoco (code u : Nat)
  | frameKfs (id len u : Nat)
  | rep (n : Nat)
  | endr
  | nTxPins (v : Nat)
  | cyclesPerUs (v : Nat)
  deriving DecidableEq, Repr

/-! ## Text -/

/-- The pieces of a text between the characters that `sep` accepts. -/
def splitChars (sep : Char → Bool) : List Char → List (List Char)
  | [] => [[]]
  | c :: cs =>
    match splitChars sep cs with
    | [] => if sep c then [[], []] else [[c]]
    | w :: ws => if sep c then [] :: w :: ws else (c :: w) :: ws

/-- The words of a text, separated by blanks and commas. -/
def wordsOf (cs : List Char) : List String :=
  ((splitChars (fun c => c == ' ' || c == ',' || c == '\t') cs).filter (fun w => !w.isEmpty)).map String.ofList

/-- A line without its comment: everything before the first `;` (R91). -/
def stripComment (cs : List Char) : List Char := cs.takeWhile (· != ';')

/-- The value of a digit in base 16, if it is one. -/
def digitValue (c : Char) : Option Nat :=
  if '0' ≤ c ∧ c ≤ '9' then some (c.toNat - '0'.toNat)
  else if 'a' ≤ c ∧ c ≤ 'f' then some (c.toNat - 'a'.toNat + 10)
  else if 'A' ≤ c ∧ c ≤ 'F' then some (c.toNat - 'A'.toNat + 10)
  else none

/-- `acc` with the digit `c` of base `b` written after it, if `c` is one. -/
def appendDigit (b acc : Nat) (c : Char) : Option Nat :=
  match digitValue c with
  | some v => if v < b then some (acc * b + v) else none
  | none => none

/-- The number that digits of base `b` write after `acc`. One `_` may stand between two digits, as in the
`0x1_0000_2828` of vector V-H7; R91 says nothing of it (DESIGN CHOICE, assumption log 16). -/
def digitsValue (b : Nat) : List Char → Nat → Option Nat
  | [], acc => some acc
  | c :: '_' :: d :: cs, acc => (appendDigit b acc c).bind (digitsValue b (d :: cs))
  | c :: cs, acc => (appendDigit b acc c).bind (digitsValue b cs)

/-- A decimal or `0x` hexadecimal integer (R91), `_` between digits ignored (assumption log 16). -/
def parseNumber (w : String) : Except ScriptError Nat :=
  let r := match w.toList with
    | '0' :: 'x' :: c :: cs => digitsValue 16 (c :: cs) 0
    | c :: cs => digitsValue 10 (c :: cs) 0
    | [] => none
  match r with
  | some v => .ok v
  | none => .error .badNumber

/-- A value that a bus word or a timestamp holds. -/
def parseWord (w : String) : Except ScriptError Word := do
  let v ← parseNumber w
  if v < 2 ^ 64 then .ok (BitVec.ofNat 64 v) else .error .valueTooWide

/-- The register names of R30. -/
def registerNames : List (String × Addr) :=
  [ ("STATUS", 0x00), ("IRQ_EN", 0x01), ("ERR_CAUSE", 0x02),
    ("COCO_NOMINAL", 0x10), ("COCO_TOL", 0x11), ("COCO_REPEAT", 0x12), ("COCO_REFRACT", 0x13),
    ("COCO_WIN_UNIT", 0x14), ("COCO_WIN_LONG", 0x15), ("COCO_WIN_START", 0x16), ("COCO_WIN_END", 0x17),
    ("COCO_IDX", 0x18), ("COCO_LAST_TS", 0x19), ("COCO_ORIGIN", 0x1A), ("COCO_PREV_CODE", 0x1B),
    ("COCO_REPEATS", 0x1C), ("COCO_LAST_HIT", 0x1D), ("COCO_EFF", 0x1E), ("COCO_MSG_TS", 0x1F),
    ("COCO_MSG_CODE", 0x20),
    ("KFS_NOMINAL", 0x30), ("KFS_TOL", 0x31), ("KFS_REPEAT", 0x32), ("KFS_REFRACT", 0x33),
    ("KFS_WIN_UNIT", 0x34), ("KFS_WIN_LONG", 0x35), ("KFS_WIN_SYNC", 0x36), ("KFS_IDX", 0x38),
    ("KFS_LAST_TS", 0x39), ("KFS_ORIGIN", 0x3A), ("KFS_PREV", 0x3B), ("KFS_REPEATS", 0x3C),
    ("KFS_LAST_HIT", 0x3D), ("KFS_MSG_TS", 0x3F), ("KFS_MSG", 0x40),
    ("TX_CTRL", 0x50), ("TX_COCO_UNIT", 0x51), ("TX_KFS_UNIT", 0x52), ("TX_COCO_MSG", 0x53),
    ("TX_KFS_MSG", 0x54), ("TX_POS", 0x55), ("TX_CNT", 0x56), ("TX_LATCH", 0x57) ]

/-- `<reg>`: a register name of R30, or `@0xNN` (R91). -/
def parseReg (w : String) : Except ScriptError Addr :=
  match w.toList with
  | '@' :: cs => do
    let v ← parseNumber (String.ofList cs)
    if v < 256 then .ok (BitVec.ofNat 8 v) else .error .valueTooWide
  | _ =>
    match registerNames.lookup w with
    | some a => .ok a
    | none => .error .unknownRegister

/-- A write of a number that must fit the bus word. -/
def wrNumber (reg : Addr) (v : Nat) : Except ScriptError ScriptItem :=
  if v < 2 ^ 64 then .ok (.slot (.wr reg (BitVec.ofNat 64 v))) else .error .valueTooWide

/-- One item of a line (R91, R92). -/
def parseItem (ws : List String) : Except ScriptError ScriptItem :=
  match ws with
  | ["RESET"] => .ok (.slot .reset)
  | ["NOP"] => .ok (.slot .nop)
  | ["WR", r, v] => do .ok (.slot (.wr (← parseReg r) (← parseWord v)))
  | ["RD", r] => do .ok (.slot (.rd (← parseReg r)))
  | ["EDGE.COCO", t] => do .ok (.slot (.edgeCoco (← parseWord t)))
  | ["EDGE.KFS", t] => do .ok (.slot (.edgeKfs (← parseWord t)))
  | ["DUR.COCO", d] => do .ok (.durCoco (← parseNumber d))
  | ["DUR.KFS", d] => do .ok (.durKfs (← parseNumber d))
  | ["DUR.BOTH", d] => do .ok (.durBoth (← parseNumber d))
  | ["CLR", m] => do wrNumber 0x00 (← parseNumber m)
  | ["TOL.COCO", p, n] => do wrNumber 0x11 (((← parseNumber n) <<< 8) ||| (← parseNumber p))
  | ["TOL.KFS", p, n] => do wrNumber 0x31 (((← parseNumber n) <<< 8) ||| (← parseNumber p))
  | ["MSG.KFS", i, l] => do wrNumber 0x54 (((← parseNumber l) <<< 32) ||| (← parseNumber i))
  | ["TX.COCO", p] => do wrNumber 0x50 (((← parseNumber p) <<< 4) ||| 0x1)
  | ["TX.KFS", p] => do wrNumber 0x50 (((← parseNumber p) <<< 4) ||| 0x3)
  | _ => .error .unknownSlot

/-- A parameter's value, refused outside R11's range. -/
def checkParam (inRange : Nat → Bool) (v : Nat) : Except ScriptError Nat :=
  if inRange v then .ok v else .error .paramOutOfRange

/-- One line, without its comment; `none` where nothing stands on it. -/
def parseLine (cs : List Char) : Except ScriptError (Option ScriptLine) :=
  match wordsOf cs with
  | [] => .ok none
  | ["WAIT", n] => do .ok (some (.wait (← parseNumber n)))
  | ["FRAME.COCO", c, u] => do .ok (some (.frameCoco (← parseNumber c) (← parseNumber u)))
  | ["FRAME.KFS", i, l, u] => do
    .ok (some (.frameKfs (← parseNumber i) (← parseNumber l) (← parseNumber u)))
  | [".rep", n] => do .ok (some (.rep (← parseNumber n)))
  | [".endr"] => .ok (some .endr)
  | [".param", "N_TX_PINS", "=", v] => do
    .ok (some (.nTxPins (← checkParam (fun n => 1 ≤ n && n ≤ 15) (← parseNumber v))))
  | [".param", "CYCLES_PER_US", "=", v] => do
    .ok (some (.cyclesPerUs (← checkParam (1 ≤ ·) (← parseNumber v))))
  | ".param" :: _ => .error .unknownParam
  | _ => do
    let pieces := (splitChars (· == '|') cs).map wordsOf
    let items ← (pieces.filter (fun p => !p.isEmpty)).mapM parseItem
    .ok (some (.items items))

/-- A script's lines. -/
def parseScript (text : String) : Except ScriptError (List ScriptLine) := do
  let ls ← (splitChars (· == '\n') text.toList).mapM (fun l => parseLine (stripComment l))
  .ok (ls.filterMap id)

/-! ## Expansion (R92, R93) -/

/-- The assembler's time cursors, `tc_coco` and `tc_kfs` (R92). -/
structure Cursors where
  coco : Word
  kfs : Word
  deriving DecidableEq, Repr

/-- The slots an item stands for (R92). -/
def ScriptItem.slots (c : Cursors) : ScriptItem → Except ScriptError (List ScriptSlot)
  | .slot s => .ok [s]
  | .durCoco d => .ok [.edgeCoco (c.coco + BitVec.ofNat 64 d)]
  | .durKfs d => .ok [.edgeKfs (c.kfs + BitVec.ofNat 64 d)]
  | .durBoth d =>
    if c.coco = c.kfs then
      .ok [.edgeCoco (c.coco + BitVec.ofNat 64 d), .edgeKfs (c.kfs + BitVec.ofNat 64 d)]
    else .error .cursorsDiffer

/-- The inputs a slot requests (R91). -/
def ScriptSlot.encode : ScriptSlot → CycleIn
  | .reset => { CycleIn.idle with h := 0x1000 }
  | .nop => CycleIn.idle
  | .wr r v => CycleIn.write r v
  | .rd r => { CycleIn.idle with h := busHeader 2 r }
  | .edgeCoco ts => { CycleIn.idle with h := 0x0400, t := ts }
  | .edgeKfs ts => { CycleIn.idle with h := 0x0800, u := ts }

/-- What kind of slot: at most one of each kind stands on a line (R91). -/
def ScriptSlot.kind : ScriptSlot → Slot
  | .reset => .reset
  | .nop | .wr _ _ | .rd _ => .bus
  | .edgeCoco _ => .coco
  | .edgeKfs _ => .kfs

/-- "At most one bus slot, at most one EDGE.COCO and at most one EDGE.KFS, and RESET stands alone" (R91). -/
def slotsLegal (ss : List ScriptSlot) : Bool :=
  (ss.map ScriptSlot.kind).Nodup && (!(ss.map ScriptSlot.kind).contains Slot.reset || ss.length == 1)

/-- One cycle of a script: its inputs, and the cursors after it. -/
def assembleCycle (c : Cursors) (ss : List ScriptSlot) : Except ScriptError (CycleIn × Cursors) :=
  if slotsLegal ss then
    .ok (ss.foldl (fun x s => x.both s.encode) CycleIn.idle,
      ss.foldl (fun c s => match s with
        | .edgeCoco ts => { c with coco := ts }
        | .edgeKfs ts => { c with kfs := ts }
        | _ => c) c)
  else .error .slotsClash

/-- The cycles of one item each, in order. -/
def assembleItems : Cursors → List ScriptItem → Except ScriptError (List CycleIn × Cursors)
  | c, [] => .ok ([], c)
  | c, i :: is => do
    let (x, c1) ← assembleCycle c (← i.slots c)
    let (xs, c2) ← assembleItems c1 is
    .ok (x :: xs, c2)

/-- The cycles of one line (R92); directives give none (R93). -/
def ScriptLine.assemble (c : Cursors) : ScriptLine → Except ScriptError (List CycleIn × Cursors)
  | .items is => do
    let ss ← is.mapM (ScriptItem.slots c)
    let (x, c1) ← assembleCycle c ss.flatten
    .ok ([x], c1)
  | .wait n => .ok (List.replicate n CycleIn.idle, c)
  | .frameCoco code u => assembleItems c ((cocoSeq (BitVec.ofNat 32 code) u).map .durCoco)
  | .frameKfs id len u => assembleItems c ((kfsSeq (BitVec.ofNat 32 id) len u).map .durKfs)
  | .rep _ | .endr | .nTxPins _ | .cyclesPerUs _ => .ok ([], c)

/-- The cycles of a list of lines, in order. -/
def assembleLines : Cursors → List ScriptLine → Except ScriptError (List CycleIn)
  | _, [] => .ok []
  | c, l :: ls => do
    let (xs, c1) ← l.assemble c
    let ys ← assembleLines c1 ls
    .ok (xs ++ ys)

/-- Replace every `.rep n` … `.endr` by `n` copies of the lines it encloses (R93). `stack` holds the open
blocks, innermost first, each with its count and the lines before it; `cur` is the current block. -/
def expandReps : List ScriptLine → (stack : List (Nat × List ScriptLine)) → (cur : List ScriptLine) →
    Except ScriptError (List ScriptLine)
  | [], [], cur => .ok cur
  | [], _ :: _, _ => .error .unbalancedRep
  | .rep n :: ls, stack, cur => expandReps ls ((n, cur) :: stack) []
  | .endr :: ls, (n, before) :: stack, cur =>
    expandReps ls stack (before ++ (List.replicate n cur).flatten)
  | .endr :: _, [], _ => .error .unbalancedRep
  | l :: ls, stack, cur => expandReps ls stack (cur ++ [l])

/-- The parameters a script fixes (R93), over those given. R93 is silent on a second `.param` of one name
and on one inside a `.rep` block: the last in the text holds for the whole script, whatever the repeat
count, 0 included (DESIGN CHOICE, assumption log 16). -/
def scriptParams (p : Config.Params) (ls : List ScriptLine) : Config.Params :=
  ls.foldl (fun p l => match l with
    | .nTxPins v => { p with nTxPins := v }
    | .cyclesPerUs v => { p with cyclesPerUs := v }
    | _ => p) p

/-- The machine right after reset with a script's cycles to come and its parameters, over those given. -/
def State.ofScript (p : Config.Params) (text : String) : Except ScriptError State := do
  let ls ← parseScript text
  let xs ← assembleLines { coco := 0, kfs := 0 } (← expandReps ls [] [])
  .ok (.resetWith (scriptParams p ls) xs)

end Sys2Proof.Machine
end

