-- ==== Sys2Proof/Tests/Slice0.lean ====
section
/-! SUPPORT. The model's own tests. Expected values come from spec/95_test_vectors.md (the vector or
program is named) or from the rule that is cited; words are written out from R80's header layout. -/

namespace Sys2Proof.Tests

-- one thread: each concurrent kernel evaluation would take a stack of its own
set_option Elab.async false

open Sys2Proof.Machine

/-! ## Well-formedness -/

theorem test_wellFormed_refuses_ignored_write_to_its_own_row :
    (Instr.wrIgnored 0x10 5).WellFormed = false := by decide
theorem test_wellFormed_refuses_ignored_write_to_status :
    (Instr.wrIgnored 0x00 5).WellFormed = false := by decide
theorem test_wellFormed_admits_ignored_write_to_a_window :
    (Instr.wrIgnored 0x14 5).WellFormed = true := by decide
theorem test_only_the_tick_has_no_encoding :
    Instr.hasEncoding .txTick = false ∧ Instr.hasEncoding .reset = true := by decide

/-! ## Decoding: R, K, C, OP, A of R80 written out bit by bit; T from bit 16, D from bit 144 -/

theorem test_decode_reset : decodeTableWord 16 0b1_0_0_00_00000000 = some .reset := by decide +kernel
theorem test_decode_edgeCoco :
    decodeTableWord 208 (1000 <<< 16 + 0b0_0_1_00_00000000) = some (.edgeCoco 1000) := by decide +kernel
theorem test_decode_edgeKfs :
    decodeTableWord 208 (12200 <<< 80 + 0b0_1_0_00_00000000) = some (.edgeKfs 12200) := by decide +kernel
theorem test_decode_nop : decodeTableWord 16 0b0_0_0_00_00000000 = some (.nop 0) := by decide +kernel
theorem test_decode_reserved : decodeTableWord 16 0b0_0_0_11_00000000 = some (.reserved 0) := by decide +kernel
theorem test_decode_rd : decodeTableWord 16 0b0_0_0_10_00100000 = some (.rd 0x20) := by decide +kernel
theorem test_decode_wrStatus :
    decodeTableWord 208 (0x04 <<< 144 + 0b0_0_0_01_00000000) = some (.wrStatus 4) := by decide +kernel
theorem test_decode_wrIrqEn :
    decodeTableWord 208 (0x1F <<< 144 + 0b0_0_0_01_00000001) = some (.wrIrqEn 31) := by decide +kernel
theorem test_decode_wrCocoNominal :
    decodeTableWord 208 (260 <<< 144 + 0b0_0_0_01_00010000) = some (.wrCocoNominal 260) := by decide +kernel
theorem test_decode_wrCocoTol :
    decodeTableWord 208 (0x2800 <<< 144 + 0b0_0_0_01_00010001) = some (.wrCocoTol 0x2800) := by decide +kernel
theorem test_decode_wrCocoRepeat :
    decodeTableWord 208 (3 <<< 144 + 0b0_0_0_01_00010010) = some (.wrCocoRepeat 3) := by decide +kernel
theorem test_decode_wrCocoRefract :
    decodeTableWord 208 (2 <<< 144 + 0b0_0_0_01_00010011) = some (.wrCocoRefract 2) := by decide +kernel
theorem test_decode_wrKfsNominal :
    decodeTableWord 208 (0x10000 <<< 144 + 0b0_0_0_01_00110000) = some (.wrKfsNominal 0x10000) := by decide +kernel
theorem test_decode_wrKfsTol :
    decodeTableWord 208 (0x1414 <<< 144 + 0b0_0_0_01_00110001) = some (.wrKfsTol 0x1414) := by decide +kernel
theorem test_decode_wrKfsRepeat :
    decodeTableWord 208 (255 <<< 144 + 0b0_0_0_01_00110010) = some (.wrKfsRepeat 255) := by decide +kernel
theorem test_decode_wrKfsRefract :
    decodeTableWord 208 (65535 <<< 144 + 0b0_0_0_01_00110011) = some (.wrKfsRefract 65535) := by decide +kernel
theorem test_decode_wrTxCtrl :
    decodeTableWord 208 (0x13 <<< 144 + 0b0_0_0_01_01010000) = some (.wrTxCtrl 0x13) := by decide +kernel
theorem test_decode_wrTxCocoUnit :
    decodeTableWord 208 (260 <<< 144 + 0b0_0_0_01_01010001) = some (.wrTxCocoUnit 260) := by decide +kernel
theorem test_decode_wrTxKfsUnit :
    decodeTableWord 208 (1 <<< 144 + 0b0_0_0_01_01010010) = some (.wrTxKfsUnit 1) := by decide +kernel
theorem test_decode_wrTxCocoMsg :
    decodeTableWord 208 (0x12345678 <<< 144 + 0b0_0_0_01_01010011) = some (.wrTxCocoMsg 0x12345678) := by
  decide +kernel
theorem test_decode_wrTxKfsMsg :
    decodeTableWord 208 (0x0000000500000016 <<< 144 + 0b0_0_0_01_01010100)
      = some (.wrTxKfsMsg 0x0000000500000016) := by decide +kernel
theorem test_decode_wrIgnored :
    decodeTableWord 208 (5 <<< 144 + 0b0_0_0_01_10011001) = some (.wrIgnored 0x99 5) := by decide +kernel
/-- R85: the tx slot is selected by `S.seq.busy`, by no header bit; R86: not in a reset cycle. -/
theorem test_decode_txTick :
    decodeCycle true ⟨0x0C00, 7, 8, 0⟩ = [.edgeCoco 7, .edgeKfs 8, .txTick, .nop 0]
      ∧ decodeCycle false ⟨0x0000, 7, 8, 0⟩ = [.nop 0]
      ∧ decodeCycle true ⟨0x1C50, 7, 8, 0⟩ = [.reset] := by decide +kernel
theorem test_decode_refuses_wide_header : decodeWord 0x2000 = .error .headerTooWide := rfl
theorem test_decode_refuses_long_operands : decodeWord (2 ^ 208) = .error .operandsTooLong := rfl

/-! ## One operation or one cycle -/

/-- The state after a next state, if there is one. -/
def after : Result → Option State
  | .next t => some t
  | _ => none

/-- A state of the block `b`, of the parameters of `State.reset`. -/
def stateOf (b : Block) : State := { State.reset with blk := b, pre := b }

/-- The word on `bus_rdata` when `a` is read in the block `b`. -/
def readOf (b : Block) (a : Addr) : Option Word := (after (exec (.rd a) (stateOf b))).map (·.busRdata)

/-- The word a host reads at `a` after one operation on the block `b`. -/
def readAfter (i : Instr) (b : Block) (a : Addr) : Option Word :=
  (after (exec i (stateOf b))).bind (fun t => readOf t.blk a)

/-- A COCO frame buffer holding a list of durations from entry 0 on. -/
def cocoBufOf (l : List Nat) : Vector Dur Config.cocoBufDepth :=
  Vector.ofFn (fun i => BitVec.ofNat 32 (l.getD i.val 0))

/-- A KFS frame buffer holding a list of durations from entry 0 on. -/
def kfsBufOf (l : List Nat) : Vector Dur Config.kfsBufDepth :=
  Vector.ofFn (fun i => BitVec.ofNat 32 (l.getD i.val 0))

/-- E1's durations from the start sync up to the end sync's pulse. -/
def e1Stored : List Nat := 2600 :: (List.replicate 32 [260, 260, 260, 1040]).flatten ++ [260]

/-- P1 before cycle 133: E1's frame stored but for its end sync, with entry `j` changed to `v`. -/
def p1At (j v : Nat) : Block :=
  let l := e1Stored.set j v
  { Block.powerOn with coco := { Block.powerOn.coco with
      idx := 130, lastTs := 62360, origin := 3860, buf := cocoBufOf l } }

/-- V-K3 before a closing sync: the frame (0x15, 5) = 10101 stored, its sync at 12200. -/
def k3At : Block :=
  { Block.powerOn with kfs := { Block.powerOn.kfs with
      seen := true, idx := 12, lastTs := 30400, origin := 12200
      buf := kfsBufOf [10850, 1050, 350, 350, 1050, 1050, 350, 350, 1050, 1050, 350, 350] } }

/-- P3 after cycle 3: `KfsSeq(0x16, 5, 1)` just started on pin 1; then at a given index, repetition and
count. -/
def p3At (idx : BitVec 8) (rep : BitVec 4) (cnt : Word) : Block :=
  { Block.powerOn with
    tx := { Block.powerOn.tx with proto := .kfs, pin := 1, kfsUnit := 1, kfsId := 0x16, kfsLen := 5 }
    seq := ⟨true, .kfs, 1, 0x16, 5, 1, idx, rep, cnt⟩ }

/-- 2.7: RESET during a transmission gives `seq.busy` = 0 and `tx_out` = 0. -/
theorem test_reset_stops_a_transmission :
    (after (exec .reset (stateOf (p3At 2 0 1)))).map
      (fun t => (t.blk.seq.busy, t.blk.txOut 0, t.blk.st.txDone)) = some (false, false, false) := by
  decide +kernel
/-- V-C17: the first COCO edge, at ts 5. -/
theorem test_edgeCoco_first_edge :
    (after (exec (.edgeCoco 5) (stateOf .powerOn))).map
      (fun t => (t.blk.coco.idx, t.blk.coco.lastTs, bufRead t.blk.coco.buf 0)) = some (1, 5, 5) := by
  decide +kernel
/-- P1 cycle 133 (accept, eff 260, msg_ts 3860) and V-C10 (an end sync one too long: no Analyze). -/
theorem test_edgeCoco_end_sync :
    ((after (exec (.edgeCoco 72760) (stateOf (p1At 1 260)))).map (fun t =>
        (t.blk.coco.eff, t.blk.coco.msgTs, t.blk.coco.strobe, t.blk.st.cocoMsg, t.blk.coco.idx))
      = some (260, 3860, true, true, 0))
    ∧ (after (exec (.edgeCoco 76921) (stateOf (p1At 1 260)))).map (fun t =>
        (t.blk.coco.eff, t.blk.coco.strobe, t.blk.coco.idx)) = some (0, false, 0) := by decide +kernel
/-- The first-edge vector of 2.3: `seen`, `last_ts` 7, `idx` 0. -/
theorem test_edgeKfs_first_edge :
    (after (exec (.edgeKfs 7) (stateOf .powerOn))).map
      (fun t => (t.blk.kfs.seen, t.blk.kfs.lastTs, t.blk.kfs.idx)) = some (true, 7, 0) := by decide +kernel
/-- V-K3, its first closing sync: the candidate (0x15, 5) is recorded, the sync starts the next frame. -/
theorem test_edgeKfs_sync_records_candidate :
    (after (exec (.edgeKfs 41250) (stateOf k3At))).map (fun t => (t.blk.kfs.prevCode, t.blk.kfs.prevLen,
      t.blk.kfs.reps, t.blk.kfs.idx, t.blk.kfs.origin, t.blk.kfs.strobe)) = some (0x15, 5, 0, 1, 41250, false) := by
  decide +kernel
/-- R197. -/
theorem test_nop_changes_nothing : after (exec (.nop 0x10) (stateOf k3At)) = some (stateOf k3At) := by
  decide +kernel
/-- V-H21: OP = 11 with A = 0x00 has no effect, `bus_rdata` = 0. -/
theorem test_reserved_reads_nothing :
    (after (cycle ⟨0x0300, 0, 0, 0⟩ (stateOf k3At))).map (fun t => (t.busRdata, t.blk))
      = some (0, k3At) := by decide +kernel
/-- R38 at reset, P3's cycle 4 and V-H18's read of an unmapped address. -/
theorem test_rd :
    readOf .powerOn 0x17 = some 0x000038E000001860 ∧ readOf (p3At 0 0 1) 0x55 = some 0x0000000000130000
      ∧ readOf .powerOn 0x99 = some 0 := by decide +kernel
/-- V-H19: with STATUS = 0x11F, a write of all ones leaves 0x100. -/
theorem test_wrStatus_clears_all_sticky :
    readAfter (.wrStatus 0xFFFFFFFFFFFFFFFF) { p3At 0 0 1 with st := ⟨true, true, true, true, true⟩ } 0x00
      = some 0x100 := by decide +kernel
/-- V-H22: an accept and `WR STATUS, 0x1` in the same cycle: set wins. -/
theorem test_wrStatus_loses_to_an_accept :
    (after (cycle ⟨0x0500, 72760, 0, 1⟩ (stateOf { p1At 1 260 with st := ⟨true, false, false, false, false⟩ }))).map
      (fun t => t.blk.st.cocoMsg) = some true := by decide +kernel
/-- V-H20. -/
theorem test_wrIrqEn : readAfter (.wrIrqEn 0xFFFF) .powerOn 0x01 = some 0x1F := by decide +kernel
/-- V-H2 and V-H1. -/
theorem test_wrCocoNominal :
    readAfter (.wrCocoNominal 65535) .powerOn 0x17 = some (BitVec.ofNat 64 (3669960 * 2 ^ 32 + 65535 * 40 * 60 / 100))
      ∧ readAfter (.wrCocoNominal 0) .powerOn 0x10 = some 260
      ∧ readAfter (.wrCocoNominal 0) .powerOn 0x02 = some 0x02 := by decide +kernel
/-- V-H4, V-H5 and V-H7. -/
theorem test_wrCocoTol :
    readAfter (.wrCocoTol 0x6464) .powerOn 0x14 = some 0x0000020800000000
      ∧ readAfter (.wrCocoTol 0x6465) .powerOn 0x02 = some 0x01
      ∧ readAfter (.wrCocoTol 0x100002828) .powerOn 0x02 = some 0x01 := by decide +kernel
/-- R186. -/
theorem test_wrCocoRepeat : readAfter (.wrCocoRepeat 255) .powerOn 0x12 = some 255 := by decide +kernel
/-- R187, R211: a refractory period of 65536 raises REFRACT_RANGE, cause 0x04. -/
theorem test_wrCocoRefract :
    readAfter (.wrCocoRefract 65536) .powerOn 0x02 = some 0x04
      ∧ readAfter (.wrCocoRefract 65536) .powerOn 0x00 = some 0x04 := by decide +kernel
/-- P4 cycle 4: NOMINAL_RANGE. -/
theorem test_wrKfsNominal :
    readAfter (.wrKfsNominal 0x10000) .powerOn 0x02 = some 0x02
      ∧ readAfter (.wrKfsNominal 0x10000) .powerOn 0x30 = some 350 := by decide +kernel
/-- R189, R43: POS in bits 7..0, NEG in bits 15..8. -/
theorem test_wrKfsTol : readAfter (.wrKfsTol 0x0A14) .powerOn 0x31 = some 0x0A14 := by decide +kernel
/-- V-H8. -/
theorem test_wrKfsRepeat :
    readAfter (.wrKfsRepeat 255) .powerOn 0x32 = some 255
      ∧ readAfter (.wrKfsRepeat 256) .powerOn 0x02 = some 0x03 := by decide +kernel
/-- V-H9. -/
theorem test_wrKfsRefract : readAfter (.wrKfsRefract 65535) .powerOn 0x33 = some 65535 := by decide +kernel
/-- P3 cycle 3: what the start latches, and R164's first count. -/
theorem test_wrTxCtrl_starts :
    (after (exec (.wrTxCtrl 0x13) (stateOf { p3At 0 0 0 with seq := .reset }))).map (fun t => t.blk)
      = some (p3At 0 0 1) := by decide +kernel
/-- V-H14, V-H15, P4 cycle 11. -/
theorem test_wrTxCtrl_refuses :
    readAfter (.wrTxCtrl 0x01) .powerOn 0x02 = some 0x07 ∧ readAfter (.wrTxCtrl 0x21) .powerOn 0x02 = some 0x07
      ∧ readAfter (.wrTxCtrl 0x01) (p3At 0 0 1) 0x02 = some 0x08 := by decide +kernel
/-- V-H10. -/
theorem test_wrTxCocoUnit :
    readAfter (.wrTxCocoUnit 0) .powerOn 0x02 = some 0x05 ∧ readAfter (.wrTxCocoUnit 0) .powerOn 0x51 = some 260 := by
  decide +kernel
/-- R193. -/
theorem test_wrTxKfsUnit : readAfter (.wrTxKfsUnit 1) .powerOn 0x52 = some 1 := by decide +kernel
/-- R194. -/
theorem test_wrTxCocoMsg :
    readAfter (.wrTxCocoMsg 0x12345678) .powerOn 0x53 = some 0x12345678
      ∧ readAfter (.wrTxCocoMsg 0x112345678) .powerOn 0x02 = some 0x06 := by decide +kernel
/-- V-H11, V-H13, and P3's message. -/
theorem test_wrTxKfsMsg :
    readAfter (.wrTxKfsMsg 0x0000001900000001) .powerOn 0x02 = some 0x06
      ∧ readAfter (.wrTxKfsMsg 0x0000000101000000) .powerOn 0x02 = some 0x06
      ∧ readAfter (.wrTxKfsMsg 0x0000000500000016) .powerOn 0x54 = some 0x0000000500000016 := by decide +kernel
/-- V-H17. -/
theorem test_wrIgnored :
    (after (exec (.wrIgnored 0x14 5) (stateOf .powerOn))).map (·.blk) = some .powerOn := by decide +kernel
/-- P3: after the first high microsecond, 31 cycles low. -/
theorem test_txTick_next_duration :
    (after (exec .txTick (stateOf (p3At 0 0 1)))).map (fun t => t.blk) = some (p3At 1 0 31) := by decide +kernel
/-- P3 cycle 367: the last tick of the seventh repetition completes, TX_DONE. -/
theorem test_txTick_completes :
    (after (exec .txTick (stateOf (p3At 11 6 1)))).map (fun t => pack t.blk 0x00) = some 0x10 := by decide +kernel

/-- 2.1's vectors for nom 333 and for pos 100 with neg 50, at both inclusive ends (R15). -/
theorem test_windows :
    (win ⟨333, 20, 20, 0, 0⟩ 4).has 1065 = true ∧ (win ⟨333, 20, 20, 0, 0⟩ 4).has 1064 = false
      ∧ (win ⟨260, 100, 50, 0, 0⟩ 1).has 130 = true ∧ (win ⟨260, 100, 50, 0, 0⟩ 1).has 129 = false
      ∧ (win ⟨260, 100, 50, 0, 0⟩ 1).has 520 = true ∧ (win ⟨260, 100, 50, 0, 0⟩ 1).has 521 = false := by
  decide +kernel

/-- P4's lines 1 to 5 (R91, R92): their headers and data. -/
theorem test_script_assembles :
    (State.ofScript ⟨1, 1⟩ "RESET\nWR IRQ_EN, 0x1F\nTOL.COCO 0, 40 ; rejected\nRD COCO_TOL").toOption.map
      (fun s => s.inputs)
      = some [⟨0x1000, 0, 0, 0⟩, ⟨0x0101, 0, 0, 0x1F⟩, ⟨0x0111, 0, 0, 0x2800⟩, ⟨0x0211, 0, 0, 0⟩] := by
  decide +kernel

/-- V-H7's line as the vector writes it (R91), and `_` not between two digits refused (log 16). -/
theorem test_script_numbers :
    (State.ofScript ⟨1, 1⟩ "WR COCO_TOL, 0x1_0000_2828").toOption.map (fun s => s.inputs)
        = some [⟨0x0111, 0, 0, 0x100002828⟩]
      ∧ [parseNumber "1_0", parseNumber "1__0", parseNumber "_1", parseNumber "1_", parseNumber "0x_1"].map
          Except.toOption = [some 10, none, none, none, none] := by
  decide +kernel

/-- R93's `.param`, by log 16: the last in the text holds, inside `.rep 0` too; R11's range is kept. -/
theorem test_script_params :
    (State.ofScript ⟨1, 1⟩ ".param N_TX_PINS = 2\n.rep 0\n.param N_TX_PINS = 3\n.endr").toOption.map
        (fun s => s.params) = some ⟨1, 3⟩
      ∧ (State.ofScript ⟨1, 1⟩ ".param N_TX_PINS = 16").toOption = none := by
  decide +kernel

/-! ## Witnesses: concrete values that meet the hypotheses of each statement together, clause by clause -/

/-- P1 before cycle 133 with a configuration write in its own cycle, and the same cycle without it. -/
def edgeAndWrite : CycleIn := ⟨0x0510, 72760, 0, 65535⟩
def edgeAlone : CycleIn := ⟨0x0400, 72760, 0, 0⟩

/-- A cycle of any state has a next state, as an existential that a witness can use. -/
theorem next_of_cycle (c : CycleIn) (s : State) : ∃ t, cycle c s = .next t := ⟨_, cycle_eq c s⟩

theorem witness_DecodeEncodeAgree :
    (Instr.wrIgnored 0xFF 5).WellFormed = true ∧ encode (.wrIgnored 0xFF 5) = some (.write 0xFF 5)
      ∧ (Instr.wrIgnored 0xFF 5).slot = .bus := by decide +kernel
theorem witness_EncodeDecodeAgree :
    decodeHeader ⟨0x0D53, 1, 2, 3⟩ = [.edgeCoco 1, .edgeKfs 2, .wrTxCocoMsg 3] := by decide +kernel
theorem witness_StepRunsTheDecodedOperations :
    let s : State := { State.reset with inputs := [⟨0x0111, 0, 0, 0x2828⟩] }
    decodeCycle s.blk.seq.busy s.nextInput = [.wrCocoTol 0x2828]
      ∧ (Instr.wrCocoTol 0x2828).WellFormed = true ∧ encode (.wrCocoTol 0x2828) = some s.nextInput
      ∧ s.blk.seq.busy = false ∧ CycleIn.rst ⟨0x1D50, 1, 2, 0x11⟩ = true
      ∧ CycleIn.rst ⟨0x0D50, 1, 2, 0x11⟩ = false
      ∧ decodeCycle true ⟨0x0D50, 1, 2, 0x11⟩ = [.edgeCoco 1, .edgeKfs 2, .txTick, .wrTxCtrl 0x11] := by
  decide +kernel
theorem witness_SlotsCommute :
    Instr.slot (.edgeCoco 1) ≠ Instr.slot (.edgeKfs 2) ∧ Instr.slot .txTick ≠ Instr.slot (.wrTxCtrl 0x11)
      ∧ Instr.slot (.edgeCoco 1) ≠ .reset ∧ Instr.slot (.edgeKfs 2) ≠ .reset
      ∧ Instr.slot .txTick ≠ .reset ∧ Instr.slot (.wrTxCtrl 0x11) ≠ .reset := by decide
theorem witness_ResetCycleIgnoresTheRest :
    CycleIn.rst ⟨0x1000, 0, 0, 0⟩ = true ∧ CycleIn.rst ⟨0x1D50, 1, 2, 0x11⟩ = true := by decide +kernel
theorem witness_ReadDataPort :
    (CycleIn.rst ⟨0x02FF, 0, 0, 0⟩ = false ∧ CycleIn.op ⟨0x02FF, 0, 0, 0⟩ = 2)
      ∧ CycleIn.rst ⟨0x1200, 0, 0, 0⟩ = true ∧ CycleIn.op ⟨0x0300, 0, 0, 0⟩ ≠ 2 := by decide +kernel
theorem witness_EdgesSeeTheConfigurationBeforeAWrite :
    (∃ t, cycle edgeAndWrite (stateOf (p1At 1 260)) = .next t) ∧ (∃ u, cycle edgeAlone (stateOf (p1At 1 260)) = .next u)
      ∧ edgeAndWrite.rst = false ∧ edgeAlone.rst = false ∧ edgeAlone.op = 0
      ∧ edgeAndWrite.cocoValid = edgeAlone.cocoValid ∧ edgeAndWrite.kfsValid = edgeAlone.kfsValid
      ∧ edgeAndWrite.t = edgeAlone.t ∧ edgeAndWrite.u = edgeAlone.u :=
  ⟨next_of_cycle _ _, next_of_cycle _ _, by decide +kernel, by decide +kernel, by decide +kernel,
    by decide +kernel, by decide +kernel, rfl, rfl⟩
theorem witness_StickyBitsMerge :
    CycleIn.rst ⟨0x0500, 72760, 0, 1⟩ = false
      ∧ ∃ t, cycle ⟨0x0500, 72760, 0, 1⟩ (stateOf (p1At 1 260)) = .next t :=
  ⟨by decide +kernel, next_of_cycle _ _⟩
theorem witness_StrobesMarkAccepts_coco :
    (after (cycle edgeAlone (stateOf (p1At 1 260)))).map (fun t => t.blk.coco.strobe) = some true := by
  decide +kernel
/-- A KFS state whose next sync accepts: V-K3's third closing sync, `reps` 1. -/
def k3Third : Block := { k3At with kfs := { k3At.kfs with prevCode := 0x15, prevLen := 5, reps := 1 } }
theorem witness_StrobesMarkAccepts_kfs :
    (after (cycle ⟨0x0800, 0, 41250, 0⟩ (stateOf k3Third))).map (fun t => t.blk.kfs.strobe) = some true := by
  decide +kernel
theorem witness_DecodersAreIndependent :
    let s := stateOf .powerOn
    let t := stateOf { Block.powerOn with kfs := k3At.kfs }
    let c : CycleIn := ⟨0x0400, 9, 0, 0⟩
    let e : CycleIn := ⟨0x0C00, 9, 8, 0⟩
    c.rst = e.rst ∧ decodeBus c = decodeBus e ∧ s.freeCtr = t.freeCtr ∧ s.blk.coco = t.blk.coco
      ∧ s.blk.kfs ≠ t.blk.kfs ∧ c.cocoValid = e.cocoValid ∧ c.t = e.t := by decide +kernel
theorem witness_DecodersAreIndependent_kfs :
    let s := stateOf .powerOn
    let t := stateOf (p1At 1 260)
    let c : CycleIn := ⟨0x0800, 0, 9, 0⟩
    let e : CycleIn := ⟨0x0C00, 9, 9, 0⟩
    c.rst = e.rst ∧ decodeBus c = decodeBus e ∧ s.freeCtr = t.freeCtr ∧ s.blk.kfs = t.blk.kfs
      ∧ s.blk.coco ≠ t.blk.coco ∧ c.kfsValid = e.kfsValid ∧ c.u = e.u := by decide +kernel
theorem witness_RunningTransmissionIsUndisturbed :
    (stateOf (p3At 11 6 1)).blk.seq.busy = true ∧ CycleIn.rst ⟨0x0150, 0, 0, 0x11⟩ = false
      ∧ CycleIn.rst CycleIn.idle = false
      ∧ (after (cycle ⟨0x0150, 0, 0, 0x11⟩ (stateOf (p3At 11 6 1)))).map (fun t => t.blk.seq.busy)
        = some false := by decide +kernel
theorem witness_OnlyAStartMakesBusy :
    (stateOf .powerOn).blk.seq.busy = false
      ∧ (after (cycle ⟨0x0150, 0, 0, 0x11⟩ (stateOf .powerOn))).map (fun t => (t.blk.seq.busy, t.blk.seq.proto))
        = some (true, .coco)
      ∧ (after (cycle ⟨0x0150, 0, 0, 0x13⟩ (stateOf .powerOn))).map (fun t => (t.blk.seq.busy, t.blk.seq.proto))
        = some (true, .kfs) := by decide +kernel
theorem witness_ErrorsComeFromWritesAlone :
    (after (cycle ⟨0x0111, 0, 0, 0⟩ (stateOf .powerOn))).map (fun t => (t.set.cfgErr, t.set.txErr))
        = some (true, false)
      ∧ (after (cycle ⟨0x0150, 0, 0, 1⟩ (stateOf .powerOn))).map (fun t => (t.set.cfgErr, t.set.txErr))
        = some (false, true)
      ∧ (after (cycle ⟨0x0200, 0, 0, 0⟩ (stateOf .powerOn))).map (fun t => (t.set.cfgErr, t.set.txErr))
        = some (false, false)
      ∧ CycleIn.rst ⟨0x0111, 0, 0, 0⟩ = false ∧ CycleIn.rst ⟨0x0150, 0, 0, 1⟩ = false
      ∧ CycleIn.rst ⟨0x0200, 0, 0, 0⟩ = false := by decide +kernel
theorem witness_WritesKeepDecoderState :
    let c : CycleIn := ⟨0x0110, 0, 0, 65535⟩
    c.rst = false ∧ c.cocoValid = false ∧ c.kfsValid = false ∧ ∃ t, cycle c (stateOf k3At) = .next t :=
  ⟨by decide +kernel, by decide +kernel, by decide +kernel, next_of_cycle _ _⟩
theorem witness_NominalWrites :
    (1 ≤ (1 : Word).toNat ∧ (1 : Word).toNat < 2 ^ 16) ∧ (1 ≤ (65535 : Word).toNat ∧ (65535 : Word).toNat < 2 ^ 16)
      ∧ (0 : Word).toNat = 0 ∧ 2 ^ 16 ≤ (65536 : Word).toNat := by decide +kernel
theorem witness_ToleranceWrites :
    ((0x6401 : Word).toNat < 2 ^ 16 ∧ (0x6401 : Word).toNat % 2 ^ 8 = 1 ∧ (0x6401 : Word).toNat / 2 ^ 8 % 2 ^ 8 = 100)
      ∧ (0x6465 : Word).toNat % 2 ^ 8 = 101 ∧ (0x0028 : Word).toNat / 2 ^ 8 % 2 ^ 8 = 0
      ∧ (0x2800 : Word).toNat % 2 ^ 8 = 0 ∧ (0x6528 : Word).toNat / 2 ^ 8 % 2 ^ 8 = 101
      ∧ 2 ^ 16 ≤ (0x100002828 : Word).toNat := by decide +kernel
theorem witness_RepeatWrites : (255 : Word).toNat < 2 ^ 8 ∧ 2 ^ 8 ≤ (256 : Word).toNat := by decide +kernel
theorem witness_RefractoryWrites :
    (65535 : Word).toNat < 2 ^ 16 ∧ 2 ^ 16 ≤ (65536 : Word).toNat := by decide +kernel
theorem witness_TransmitUnitWrites :
    (1 ≤ (1 : Word).toNat ∧ (65535 : Word).toNat < 2 ^ 16) ∧ (0 : Word).toNat = 0
      ∧ 2 ^ 16 ≤ (65536 : Word).toNat := by decide +kernel
theorem witness_TransmitMessageWrites :
    let ok : Word := 0x1800FFFFFF
    let zero : Word := 0x0000000001
    let long : Word := 0x1900000001
    let reserved : Word := 0x0101000000
    (ok.toNat / 2 ^ 24 % 2 ^ 8 = 0 ∧ ok.toNat / 2 ^ 32 = 24 ∧ ok.toNat % 2 ^ 24 = 0xFFFFFF)
      ∧ zero.toNat / 2 ^ 32 = 0 ∧ long.toNat / 2 ^ 32 = 25 ∧ reserved.toNat / 2 ^ 24 % 2 ^ 8 = 1
      ∧ (0xFFFFFFFF : Word).toNat < 2 ^ 32 ∧ 2 ^ 32 ≤ (0x100000000 : Word).toNat := by decide +kernel
theorem witness_TransmitStart :
    let s := stateOf .powerOn
    ParamsLegal s.params ∧ s.pre.seq.busy = false ∧ 1 ≤ s.params.nTxPins
      ∧ (0x11 : Word).getLsbD 0 = true ∧ (0x11 : Word).toNat / 2 ^ 4 % 2 ^ 4 = 1 ∧ (0x11 : Word).getLsbD 1 = false
      ∧ (0x13 : Word).getLsbD 0 = true ∧ (0x13 : Word).toNat / 2 ^ 4 % 2 ^ 4 = 1 ∧ (0x13 : Word).getLsbD 1 = true := by
  decide +kernel
theorem witness_TransmitControlWithoutStart :
    (0x12 : Word).getLsbD 0 = false
      ∧ ((0x11 : Word).getLsbD 0 = true ∧ (stateOf (p3At 0 0 1)).pre.seq.busy = true)
      ∧ ((0x01 : Word).getLsbD 0 = true ∧ (0x01 : Word).toNat / 2 ^ 4 % 2 ^ 4 = 0
        ∧ (stateOf .powerOn).pre.seq.busy = false)
      ∧ (0x21 : Word).toNat / 2 ^ 4 % 2 ^ 4 = 2 ∧ (stateOf .powerOn).params.nTxPins = 1 := by decide +kernel
/-- A COCO transmission, unit 260, at a given index and repetition with one cycle left. -/
def cocoTxAt (idx : BitVec 8) (rep : BitVec 4) : Block :=
  { Block.powerOn with seq := ⟨true, .coco, 1, 0xA5, 0, 260, idx, rep, 1⟩ }
/-- The four clauses at their boundaries: KFS with L = 12 and R = 7, COCO with L = 132 and R = 16. -/
theorem witness_TickSteps :
    let a := stateOf (p3At 1 0 2)
    let b := stateOf (p3At 10 0 1)
    let c := stateOf (p3At 11 5 1)
    let d := stateOf (p3At 11 6 1)
    (ParamsLegal a.params ∧ a.pre.seq.busy = true ∧ a.pre.seq.proto = .kfs ∧ 2 + 2 * a.pre.seq.len.toNat = 12
        ∧ 1 < a.pre.seq.cnt.toNat)
      ∧ (b.pre.seq.cnt.toNat ≤ 1 ∧ b.pre.seq.idx.toNat + 1 < 12)
      ∧ (c.pre.seq.cnt.toNat ≤ 1 ∧ 12 ≤ c.pre.seq.idx.toNat + 1 ∧ c.pre.seq.rep.toNat + 1 < 7)
      ∧ (d.pre.seq.cnt.toNat ≤ 1 ∧ 12 ≤ d.pre.seq.idx.toNat + 1 ∧ 7 ≤ d.pre.seq.rep.toNat + 1)
      ∧ ((cocoTxAt 130 0).seq.proto = .coco ∧ (cocoTxAt 130 0).seq.idx.toNat + 1 < 132)
      ∧ (132 ≤ (cocoTxAt 131 14).seq.idx.toNat + 1 ∧ (cocoTxAt 131 14).seq.rep.toNat + 1 < 16)
      ∧ 16 ≤ (cocoTxAt 131 15).seq.rep.toNat + 1 := by decide +kernel
/-- The smallest transmission: unit 1, one bit, one cycle a microsecond. Its start is the next input, and a
second start request comes after it. -/
def shortTransmission : State :=
  { stateOf { Block.powerOn with tx := { Block.powerOn.tx with kfsUnit := 1, kfsLen := 1 } } with
    inputs := [⟨0x0150, 0, 0, 0x13⟩, ⟨0x0150, 0, 0, 0x11⟩] }
theorem witness_TransmissionLastsExactly :
    let s := shortTransmission
    ParamsLegal s.params ∧ s.blk.tx.Legal ∧ s.blk.seq.busy = false ∧ s.nextInput.rst = false
      ∧ s.nextInput.op = 1 ∧ s.nextInput.addr = 0x50 ∧ dStart s.nextInput.d = true
      ∧ (dPin s.nextInput.d).toNat = 1 ∧ s.params.nTxPins = 1
      ∧ s.nextInput.d.getLsbD 1 = true
      ∧ 7 * (32 + 4 * s.blk.tx.kfsLen.toNat) * s.blk.tx.kfsUnit.toNat * s.params.cyclesPerUs = 252
      ∧ ((s.inputs.drop 1).take 252) = [⟨0x0150, 0, 0, 0x11⟩] ∧ CycleIn.rst ⟨0x0150, 0, 0, 0x11⟩ = false := by
  decide +kernel
theorem witness_SequenceShapes :
    (31 < 32 ∧ 4 < 5) ∧ ((cocoSeq 1 1).drop (2 + 4 * 31)).take 4 = [1, 4, 1, 1]
      ∧ ((kfsSeq 1 5 1).drop (2 + 2 * 4)).take 2 = [3, 1] := by decide +kernel
theorem witness_OutputLines : (p3At 0 0 1).txOut 0 = true := by decide +kernel
theorem witness_DurationsSaturate :
    (duration 7 7 = 0 ∧ duration (2 ^ 32) 0 = 0xFFFFFFFF ∧ duration 0 0xFFFFFFFFFFFFFFFF = 1)
      ∧ ((2 : Word) ^ 64 - 2 ^ 32 + 1).toNat - (0 : Word).toNat ≤ 2 ^ 64 - 2 ^ 32 + 1
      ∧ (4 : Word).toNat < (5 : Word).toNat := by decide +kernel
theorem witness_WindowBounds :
    DecoderCfg.Legal ⟨65535, 100, 100, 0, 0⟩ ∧ DecoderCfg.Legal ⟨1, 1, 1, 255, 65535⟩ ∧ 40 ∈ [1, 3, 4, 10, 31, 40] := by
  decide +kernel
theorem witness_CocoEdgeStores :
    let s := stateOf (p1At 1 260)
    let c := s.pre.coco.cfg
    isS c (duration (62360 + 2600) s.pre.coco.lastTs) = true
      ∧ ¬ (isE c (duration (62360 + 14561) s.pre.coco.lastTs) = true)
      ∧ isE Block.powerOn.coco.cfg (duration 10400 0) = true ∧ Block.powerOn.coco.idx.toNat ≠ 130 := by
  decide +kernel
theorem witness_CocoEndSyncAnalyzes :
    let s := stateOf (p1At 1 260)
    let t := stateOf (p1At 1 365)
    let u := stateOf { p1At 1 260 with coco := { (p1At 1 260).coco with prevCode := 0xA5 } }
    let d : Dur := 10400
    (∀ x ∈ [s, t, u], d = duration 72760 x.pre.coco.lastTs ∧ isS x.pre.coco.cfg d = false
        ∧ isE x.pre.coco.cfg d = true ∧ x.pre.coco.idx = 130)
      ∧ cocoWalk t.pre.coco.cfg (t.pre.coco.buf.setIfInBounds 130 d) = none
      ∧ cocoWalk s.pre.coco.cfg (s.pre.coco.buf.setIfInBounds 130 d) = some 0
      ∧ (cocoFilter s.pre.coco s.blk.coco 0 s.pre.coco.origin).2 = true
      ∧ cocoWalk u.pre.coco.cfg (u.pre.coco.buf.setIfInBounds 130 d) = some 0
      ∧ (cocoFilter u.pre.coco u.blk.coco 0 u.pre.coco.origin).2 = false := by decide +kernel
theorem witness_KfsEdgeStores :
    let s := stateOf k3At
    let c := s.pre.kfs.cfg
    Block.powerOn.kfs.seen = false ∧ s.pre.kfs.seen = true
      ∧ isKS c (duration (30400 + 13021) s.pre.kfs.lastTs) = false
      ∧ ({ s.pre.kfs with idx := 67 } : KfsState).idx.toNat = 67
      ∧ (isKS c (duration (30400 + 13020) s.pre.kfs.lastTs) = true
        ∧ ¬ 5 ≤ ({ s.pre.kfs with idx := 4 } : KfsState).idx.toNat) := by decide +kernel
theorem witness_KfsSyncAnalyzes :
    let s := stateOf k3At
    let t := stateOf k3Third
    let d := duration 41250 s.pre.kfs.lastTs
    (s.pre.kfs.seen = true ∧ isKS s.pre.kfs.cfg d = true ∧ 5 ≤ s.pre.kfs.idx.toNat
        ∧ kfsWalk s.pre.kfs.cfg s.pre.kfs.buf s.pre.kfs.idx.toNat = (0x15, 5)
        ∧ (kfsFilter s.pre.kfs s.blk.kfs 0x15 5 s.pre.kfs.origin).2 = false)
      ∧ (kfsFilter t.pre.kfs t.blk.kfs 0x15 5 t.pre.kfs.origin).2 = true
      ∧ kfsWalk s.pre.kfs.cfg s.pre.kfs.buf 5 = (0x2, 2) := by decide +kernel
theorem witness_KfsWalkReadsPairs :
    kfsWalk .kfsReset (kfsBufOf (10850 :: (List.replicate 24 [350, 1050]).flatten ++ [350])) 50 = (0, 24)
      ∧ kfsWalk .kfsReset (kfsBufOf []) 50 = (0, 0) := by decide +kernel
theorem witness_KfsCandidateNeedsElevenEntries :
    kfsValid (kfsWalk .kfsReset k3At.kfs.buf 11) = true ∧ kfsValid (kfsWalk .kfsReset k3At.kfs.buf 10) = false := by
  decide +kernel
theorem witness_CocoFilterSteps :
    let c := Block.powerOn.coco
    min (c.reps.toNat + 1) 511 = c.cfg.rep.toNat ∧ c.prevCode = 0
      ∧ c.cfg.ref.toNat * 1000000 < (3860 - c.lastHit).toNat
      ∧ (0 - c.lastHit : Word).toNat ≤ c.cfg.ref.toNat * 1000000 ∧ (0xA5 : BitVec 32) ≠ c.prevCode := by
  decide +kernel
theorem witness_KfsFilterSteps :
    let k := k3Third.kfs
    min (k.reps.toNat + 1) 511 = k.cfg.rep.toNat ∧ k.prevCode = 0x15 ∧ k.prevLen = 5
      ∧ k.cfg.ref.toNat * 1000000 < (12200 - k.lastHit).toNat
      ∧ min (k3At.kfs.reps.toNat + 1) 511 ≠ k.cfg.rep.toNat ∧ (6 : BitVec 5) ≠ k.prevLen := by decide +kernel
theorem witness_FramesNeededForAnAccept :
    let c := Block.powerOn.coco
    let k := Block.powerOn.kfs
    (1 ≤ c.cfg.rep.toNat ∧ [(75620 : Word)].length = c.cfg.rep.toNat
        ∧ (∀ t ∈ [(75620 : Word)], c.cfg.ref.toNat * 1000000 < (t - c.lastHit).toNat)
        ∧ c.prevCode ≠ 0xA5 ∧ c.prevCode = 0 ∧ c.reps = 0)
      ∧ (1 ≤ k.cfg.rep.toNat ∧ [(57000 : Word), 101800].length = k.cfg.rep.toNat
        ∧ (∀ t ∈ [(57000 : Word), 101800], k.cfg.ref.toNat * 1000000 < (t - k.lastHit).toNat)
        ∧ k.prevCode ≠ 0xABCDE1 ∧ k.prevCode = 0 ∧ k.prevLen = 0 ∧ k.reps = 0) := by
  refine ⟨⟨by decide, by decide, fun t ht => ?_, by decide, by decide, by decide⟩,
    ⟨by decide, by decide, fun t ht => ?_, by decide, by decide, by decide, by decide⟩⟩
  · rw [List.mem_singleton.1 ht]; decide
  · obtain rfl | ht := List.mem_cons.1 ht
    · decide
    · rw [List.mem_singleton.1 ht]; decide
theorem witness_FilterNeverAccepts :
    DecoderCfg.rep ⟨260, 40, 40, 0, 0⟩ = 0
      ∧ (1000000 : Word).toNat ≤ (DecoderCfg.ref ⟨260, 40, 40, 1, 1⟩).toNat * 1000000 ∧ (511 : BitVec 9).toNat = 511 := by
  decide +kernel
theorem witness_CyclesKeepTheInvariants :
    let s : State := stateOf (p3At 11 6 1)
    ParamsLegal s.params ∧ s.Inv ∧ ∃ t, step s = .next t :=
  ⟨by decide +kernel, by decide +kernel, next_of_cycle _ _⟩
theorem witness_InvariantsAlwaysHold : ParamsLegal ⟨1, 1⟩ ∧ ParamsLegal ⟨16, 15⟩ := by decide +kernel
/-- Two states that agree and are not equal: they differ in the entries at and above the write indices. -/
theorem witness_CyclesNeverReadUnwrittenEntries :
    let s := stateOf (.reset (Vector.replicate _ 1) (Vector.replicate _ 2))
    let t := stateOf (.reset (Vector.replicate _ 3) (Vector.replicate _ 4))
    s.Agree t ∧ bufRead s.blk.coco.buf 0 ≠ bufRead t.blk.coco.buf 0 ∧ ∃ s', step s = .next s' := by
  refine ⟨?_, by decide +kernel, next_of_cycle _ _⟩
  simp only [State.Agree, CocoState.Agree, KfsState.Agree]
  exact ⟨⟨rfl, fun i h => absurd h (Nat.not_lt_zero i)⟩, ⟨rfl, fun i h => absurd h (Nat.not_lt_zero i)⟩,
    rfl, rfl, rfl, rfl, rfl⟩
theorem witness_CocoFramesDecodeToTheirCode :
    let l := (cocoSeq 0x12345678 260).drop 1
    DecoderCfg.Legal .cocoReset ∧ ∀ i, i < 131 → (bufRead (cocoBufOf l) i).toNat
      = (cocoSeq 0x12345678 (DecoderCfg.nom .cocoReset).toNat).getD (i + 1) 0 := by decide +kernel
theorem witness_KfsFramesDecodeToTheirCode :
    let l := (kfsSeq 0xABCDE1 24 350).drop 1 ++ [350]
    DecoderCfg.Legal .kfsReset ∧ ∀ i, i < 2 * 24 + 1 → (bufRead (kfsBufOf l) i).toNat
      = (kfsSeq 0xABCDE1 24 (DecoderCfg.nom .kfsReset).toNat).getD (i + 1) 0 := by decide +kernel

end Sys2Proof.Tests
end

/-! ## Windows (40_tolerance.md R100 to R106) -/

section
namespace Sys2Proof.Machine

/-- R106: the upper bound exceeds the nominal duration exactly when the positive tolerance of that
duration amounts to a whole microsecond. -/
theorem win_lt_max_iff (cfg : DecoderCfg) (n : Nat) :
    cfg.nom.toNat * n < (win cfg n).max ↔ 100 ≤ cfg.nom.toNat * n * cfg.pos.toNat := by
  simp only [win, Nat.mul_add]
  omega

/-- A saturated duration is in no window that a classifier uses. -/
theorem win_has_saturated (cfg : DecoderCfg) (n : Nat) (h : cfg.Legal) (hn : n ≤ 40) :
    (win cfg n).has (BitVec.ofNat 32 (2 ^ 32 - 1)) = false := by
  have hmax := win_max_le cfg n h hn
  have hd : (BitVec.ofNat 32 (2 ^ 32 - 1)).toNat = 4294967295 := by decide
  rw [Bool.eq_false_iff, ne_eq, Window.has_iff, hd]
  omega

/-- Settles O38: membership is the two comparisons of R15, each classifier is its window by definition,
and the bounds follow from the legal ranges of the configuration. -/
theorem windowBounds : Obligations.WindowBounds := by
  intro cfg n h
  refine ⟨fun d => Window.has_iff (win cfg n) d, fun _ => ⟨rfl, rfl, rfl, rfl, rfl, rfl, rfl⟩, fun hn => ?_⟩
  have hrange : ∀ k ∈ [1, 3, 4, 10, 31, 40], 1 ≤ k ∧ k ≤ 40 := by decide
  obtain ⟨hlow, hhigh⟩ := hrange n hn
  exact ⟨win_max_le cfg n h hhigh, win_min_lt cfg n h hlow, win_le_max cfg n, win_lt_max_iff cfg n,
    win_has_saturated cfg n h hhigh⟩

end Sys2Proof.Machine
end

/-! ## Durations (00_scope.md R13, 41_coco_decoder.md R110) -/

section
namespace Sys2Proof.Machine

/-- R110's difference of timestamps modulo 2^64, as a number. -/
theorem duration_toNat_eq_mod (ts last : Word) :
    (duration ts last).toNat = min ((ts.toNat + 2 ^ 64 - last.toNat) % 2 ^ 64) (2 ^ 32 - 1) := by
  have hlast := last.isLt
  rw [duration_toNat, BitVec.toNat_sub]
  congr 2
  omega

/-- Settles O37: with `ts` not before `last` the modulus drops the 2^64 again; with `ts` before it, by no
more than the bound, the difference is at least 2^32 − 1 and below the modulus. -/
theorem durationsSaturate : Obligations.DurationsSaturate := by
  intro ts last
  have hts := ts.isLt
  refine ⟨duration_toNat_eq_mod ts last, fun hforward => ?_, fun hback hbound => ?_⟩
  · have hmod : (ts.toNat + 2 ^ 64 - last.toNat) % 2 ^ 64 = ts.toNat - last.toNat := by omega
    rw [duration_toNat_eq_mod, hmod]
  · have hmod : (ts.toNat + 2 ^ 64 - last.toNat) % 2 ^ 64 = ts.toNat + 2 ^ 64 - last.toNat := by omega
    rw [duration_toNat_eq_mod, hmod]
    omega

end Sys2Proof.Machine
end

/-! ## The operations of a cycle (20_memory.md R66, 30_encoding.md R85, R86) -/

section
namespace Sys2Proof

/-- With the sequencer idle a cycle has the operations of its header. -/
theorem decodeCycle_idle (c : CycleIn) : decodeCycle false c = decodeHeader c := by
  simp [decodeCycle, decodeHeader]

/-- R86: with R = 1 only RESET executes. -/
theorem decodeHeader_of_rst (c : CycleIn) (h : c.rst = true) : decodeHeader c = [.reset] := if_pos h
theorem decodeCycle_of_rst (busy : Bool) (c : CycleIn) (h : c.rst = true) :
    decodeCycle busy c = [.reset] := if_pos h

/-- The edges that the header of a cycle requests, in the order of R85's table. -/
def headerEdges (c : CycleIn) : List Instr :=
  (if c.cocoValid then [.edgeCoco c.t] else []) ++ (if c.kfsValid then [.edgeKfs c.u] else [])

theorem decodeHeader_of_not_rst (c : CycleIn) (h : c.rst = false) :
    decodeHeader c = headerEdges c ++ [decodeBus c] := by
  simp [decodeHeader, headerEdges, h]

theorem decodeCycle_busy_of_not_rst (c : CycleIn) (h : c.rst = false) :
    decodeCycle true c = headerEdges c ++ [.txTick, decodeBus c] := by
  simp [decodeCycle, headerEdges, h]

/-- The header of an encoded bus operation selects that operation alone. -/
theorem decodeHeader_of_encode_bus (i : Instr) (c : CycleIn) (hw : i.WellFormed = true)
    (hs : i.slot = .bus) (he : encode i = some c) : decodeHeader c = [i] := by
  obtain ⟨op, a, d, hi⟩ := encode_bus i hs
  have hc : c = { CycleIn.idle with h := busHeader op a, d := d } := Option.some.inj (he.symm.trans hi)
  have hh : c.h = busHeader op a := by rw [hc]
  have hd : c.d = d := by rw [hc]
  obtain ⟨hrst, hkfs, hcoco, hop, ha⟩ := busHeader_fields op a
  rw [← hh] at hrst hkfs hcoco hop ha
  rw [decodeHeader_of_not_rst c hrst, decodeBus_of_encode i hw op a d hi hs c hop ha hd]
  simp only [headerEdges, CycleIn.cocoValid, CycleIn.kfsValid, hcoco, hkfs, Bool.false_eq_true,
    if_false, List.nil_append]

/-- R94: an edge alone selects its operation, and a NOP in the bus slot. -/
theorem decodeHeader_edgeCoco (ts : Word) :
    decodeHeader { CycleIn.idle with h := 0x0400, t := ts } = [.edgeCoco ts, .nop 0] := by
  simp [decodeHeader, decodeBus, CycleIn.rst, CycleIn.cocoValid, CycleIn.kfsValid, CycleIn.op,
    CycleIn.addr]
theorem decodeHeader_edgeKfs (ts : Word) :
    decodeHeader { CycleIn.idle with h := 0x0800, u := ts } = [.edgeKfs ts, .nop 0] := by
  simp [decodeHeader, decodeBus, CycleIn.rst, CycleIn.cocoValid, CycleIn.kfsValid, CycleIn.op,
    CycleIn.addr]

/-- R91: the header of an encoded operation selects it, beside no more than the NOP that an edge alone
leaves in the bus slot. -/
theorem decodeHeader_of_encode (i : Instr) (c : CycleIn) (hw : i.WellFormed = true)
    (he : encode i = some c) : decodeHeader c = [i] ∨ decodeHeader c = [i, .nop 0] := by
  cases i
  case reset => cases he; exact .inl rfl
  case edgeCoco ts => cases he; exact .inr (decodeHeader_edgeCoco ts)
  case edgeKfs ts => cases he; exact .inr (decodeHeader_edgeKfs ts)
  case txTick => cases he
  all_goals exact .inl (decodeHeader_of_encode_bus _ c hw rfl he)

end Sys2Proof

namespace Sys2Proof.Machine

theorem runOps_singleton (i : Instr) (s : State) : runOps [i] s = exec i s := by
  simp [runOps_eq, exec_eq_applyOp]

/-- R197: a NOP after an operation changes nothing. -/
theorem runOps_nop_after (i : Instr) (a : Addr) (s : State) : runOps [i, .nop a] s = exec i s := by
  rw [runOps_eq, exec_eq_applyOp]
  rfl

/-- A step whose inputs encode one operation, with the sequencer idle, runs that operation. -/
theorem step_of_encode (s : State) (i : Instr) (hw : i.WellFormed = true)
    (he : encode i = some s.nextInput) (hidle : s.blk.seq.busy = false) :
    step s = exec i s.openCycle := by
  have hops : step s = runOps (decodeHeader s.nextInput) s.openCycle := by
    rw [step, cycle, hidle, decodeCycle_idle]
  obtain hone | hnop := decodeHeader_of_encode i s.nextInput hw he
  · rw [hops, hone, runOps_singleton]
  · rw [hops, hnop, runOps_nop_after]

/-- Settles O4: the clauses about the decoder split on R = 1 and the sequencer, and those about `exec`
follow from what a list of one operation, or of one and a NOP, runs. -/
theorem stepRunsTheDecodedOperations : Obligations.StepRunsTheDecodedOperations := by
  intro s
  have hstep : step s = runOps (decodeCycle s.blk.seq.busy s.nextInput) s.openCycle := rfl
  refine ⟨hstep, fun i hi => ?_, fun i hw he hidle => step_of_encode s i hw he hidle, decodeCycle_idle,
    fun c h => ⟨decodeCycle_of_rst true c h, decodeHeader_of_rst c h⟩,
    fun c h => ⟨headerEdges c, decodeHeader_of_not_rst c h, decodeCycle_busy_of_not_rst c h⟩,
    fun _ _ => rfl, s.openCycle_pre, rfl, s.openCycle_set, s.openCycle_clr, s.openCycle_busRdata,
    s.openCycle_inputs, s.openCycle_params⟩
  rw [hstep, hi, runOps_singleton]

end Sys2Proof.Machine
end

/-! ## The invariants of the block (10_state.md R57) -/

section
namespace Sys2Proof.Machine

/-! ### Reset -/

/-- R56, R57: the reset state has the invariants, whatever the frame buffers hold. -/
theorem Block.reset_inv (p : Config.Params) (cb : Vector Dur Config.cocoBufDepth)
    (kb : Vector Dur Config.kfsBufDepth) : (Block.reset cb kb).Inv p := by
  have hseq : Seq.reset.Inv p := ⟨fun _ => ⟨rfl, rfl, rfl⟩, fun hbusy => absurd hbusy (by decide)⟩
  have hcoco : DecoderCfg.cocoReset.Legal := by decide
  have hkfs : DecoderCfg.kfsReset.Legal := by decide
  have htx : TxCfg.reset.Legal := by decide
  exact ⟨Nat.zero_le _, Nat.zero_le _, hseq, Nat.zero_le _, Nat.zero_le _, hcoco, hkfs, htx, Nat.zero_le _⟩

/-- Settles O54: both are the reset block, with one choice of buffer contents or another. -/
theorem resetHasTheInvariants : Obligations.ResetHasTheInvariants :=
  ⟨Block.reset_inv _ _ _, Block.reset_inv⟩

/-! ### The edge and tx slots -/

/-- R152: nine bits hold no count above 511. -/
theorem reps_le (r : BitVec 9) : r.toNat ≤ 511 := Nat.le_of_lt_succ r.isLt

/-- R111: the COCO write index wraps at the last entry. -/
theorem cocoEdge_idx_le (S S' : CocoState) (ts : Word) (h : S.idx.toNat ≤ 130) :
    (cocoEdge S S' ts).1.idx.toNat ≤ 130 := by
  obtain ⟨-, -, -, -, hidx, -⟩ := cocoEdge_frame S S' ts
  have hi : (cocoStoreIdx S (duration ts S.lastTs)).toNat ≤ 130 := by
    rw [cocoStoreIdx_toNat]
    split
    · exact Nat.zero_le _
    · exact h
  rw [hidx]
  split
  · exact Nat.zero_le _
  · rename_i hlast
    rw [BitVec.toNat_add]
    exact le_trans (Nat.mod_le _ _) (Nat.lt_of_le_of_ne hi hlast)

/-- R134: the KFS write index wraps at the depth of the buffer. -/
theorem kfsEdge_idx_le (S S' : KfsState) (ts : Word) (h : S.idx.toNat ≤ 67) (h' : S'.idx.toNat ≤ 67) :
    (kfsEdge S S' ts).1.idx.toNat ≤ 67 := by
  obtain ⟨-, -, hfirst, hlater, -⟩ := kfsEdge_frame S S' ts
  cases hseen : S.seen
  · rw [hfirst hseen]
    exact h'
  · obtain ⟨-, -, -, hidx⟩ := hlater hseen
    rw [hidx, BitVec.toNat_ofNat]
    refine le_trans (Nat.mod_le _ _) ?_
    split
    · omega
    · split <;> omega

theorem cocoSlot_cfg (c : CycleIn) (s : State) : (cocoSlot c s).1.cfg = s.blk.coco.cfg := by
  unfold cocoSlot
  split
  · exact cocoEdge_cfg _ _ _
  · rfl

theorem kfsSlot_cfg (c : CycleIn) (s : State) : (kfsSlot c s).1.cfg = s.blk.kfs.cfg := by
  unfold kfsSlot
  split
  · exact kfsEdge_cfg _ _ _
  · rfl

theorem cocoSlot_idx_le (c : CycleIn) (s : State) (h : s.blk.coco.idx.toNat ≤ 130) :
    (cocoSlot c s).1.idx.toNat ≤ 130 := by
  unfold cocoSlot
  split
  · exact cocoEdge_idx_le _ _ _ h
  · exact h

theorem kfsSlot_idx_le (c : CycleIn) (s : State) (h : s.blk.kfs.idx.toNat ≤ 67) :
    (kfsSlot c s).1.idx.toNat ≤ 67 := by
  unfold kfsSlot
  split
  · exact kfsEdge_idx_le _ _ _ h h
  · exact h

theorem txSlot_inv (s : State) (hp : ParamsLegal s.params) (h : s.blk.seq.Inv s.params) :
    (txSlot s).1.Inv s.params := by
  unfold txSlot
  split
  · exact seqTick_inv _ _ hp h ‹_›
  · exact h

/-- The edge and tx slots keep the invariants. -/
theorem afterSlots_inv (c : CycleIn) (s : State) (hp : ParamsLegal s.params) (h : s.Inv) :
    (s.afterSlots c).Inv := by
  obtain ⟨hcoco, hkfs, hseq, -, -, hcc, hkc, htx, herr⟩ := h
  refine ⟨cocoSlot_idx_le c s hcoco, kfsSlot_idx_le c s hkfs, txSlot_inv s hp hseq, reps_le _, reps_le _,
    ?_, ?_, htx, herr⟩
  · exact (cocoSlot_cfg c s).symm ▸ hcc
  · exact (kfsSlot_cfg c s).symm ▸ hkc

/-! ### The bus slot -/

/-- R211: a code that an error event records is at most 8. -/
theorem txCause_code_le (code : BitVec 8) (h : code = 0x07 ∨ code = 0x08) : code.toNat ≤ 8 := by
  obtain rfl | rfl := h <;> decide

/-- A bus operation keeps the invariants: legal data is all it writes, and a start latches the legal
encoder configuration of the pre-state. -/
theorem bus_inv (i : Instr) (s : State) (hs : i.slot = .bus) (hp : ParamsLegal s.params)
    (hpre : s.pre.tx.Legal) (h : s.Inv) : (applyOp i s).Inv := by
  obtain ⟨hcoco, hkfs, hseq, hcr, hkr, hcc, hkc, htx, herr⟩ := h
  have heff := bus_effect i s hs
  generalize applyOp i s = t at heff ⊢
  cases heff with
  | nothing | read | clear | irqEn => exact ⟨hcoco, hkfs, hseq, hcr, hkr, hcc, hkc, htx, herr⟩
  | cocoCfg c hc => exact ⟨hcoco, hkfs, hseq, hcr, hkr, hc hcc, hkc, htx, herr⟩
  | kfsCfg c hc => exact ⟨hcoco, hkfs, hseq, hcr, hkr, hcc, hc hkc, htx, herr⟩
  | tx t ht => exact ⟨hcoco, hkfs, hseq, hcr, hkr, hcc, hkc, ht htx, herr⟩
  | rejected a d code he ha h1 h2 =>
    exact ⟨hcoco, hkfs, hseq, hcr, hkr, hcc, hkc, htx, le_trans h2 (by decide)⟩
  | refused d t code hi ht hcode =>
    exact ⟨hcoco, hkfs, hseq, hcr, hkr, hcc, hkc, ht htx, txCause_code_le code hcode⟩
  | start d t hi ht hidle hstart hpin1 hpin2 =>
    exact ⟨hcoco, hkfs, startSeq_inv _ _ _ _ hp hpre hpin1 hpin2, hcr, hkr, hcc, hkc, ht htx, herr⟩

/-! ### A cycle, and any number of them -/

theorem cycle_inv (c : CycleIn) (s t : State) (hp : ParamsLegal s.params) (h : s.Inv)
    (hc : cycle c s = .next t) : t.Inv := by
  cases hrst : c.rst
  · rw [cycle_of_running c s hrst] at hc
    cases hc
    obtain ⟨-, -, -, -, -, -, -, htx, -⟩ := id h
    exact bus_inv _ _ (decodeBus_wellFormed c).2 hp htx (afterSlots_inv c s hp h)
  · rw [cycle_of_reset c s hrst] at hc
    cases hc
    exact Block.reset_inv _ _ _

/-- Settles O53: with R = 1 the cycle ends in the reset block; with R = 0 the edge and tx slots and then
the bus operation keep each clause. -/
theorem cyclesKeepTheInvariants : Obligations.CyclesKeepTheInvariants :=
  fun s t hp h hstep => cycle_inv s.nextInput s t hp h hstep

theorem applyOps_params (is : List Instr) (s : State) : (applyOps is s).params = s.params := by
  induction is generalizing s with
  | nil => rfl
  | cons i is ih =>
    obtain ⟨-, hparams, -⟩ := applyOp_frame i s
    rw [applyOps_cons, ih, hparams]

/-- Every step answers a next state. -/
theorem step_next (s : State) : ∃ t, step s = .next t := ⟨_, cycle_eq _ _⟩

/-- R11: no step writes the parameters. -/
theorem step_params (s t : State) (h : step s = .next t) : t.params = s.params := by
  rw [step, cycle_eq] at h
  cases h
  rw [applyOps_params, State.openCycle_params]

/-- One step, then the others. -/
theorem run_succ (n : Nat) (s t : State) (h : step s = .next t) :
    core.run (n + 1) s = core.run n t := by
  have hcore : core.step s = .next t := h
  simp only [Host.Core.run, hcore]

/-- What every step keeps holds after any number of steps. -/
theorem run_keeps (P : State → Prop) (hstep : ∀ s t, P s → step s = .next t → P t) (n : Nat) (s : State)
    (h : P s) : ∃ t, core.run n s = .next t ∧ P t := by
  induction n generalizing s with
  | zero => exact ⟨s, rfl, h⟩
  | succ n ih =>
    obtain ⟨u, hu⟩ := step_next s
    rw [run_succ n s u hu]
    exact ih u (hstep s u h hu)

/-- Settles O55: the reset state has the invariants, and a step keeps them and the parameters. -/
theorem invariantsAlwaysHold : Obligations.InvariantsAlwaysHold := by
  intro p is n hp
  obtain ⟨t, hrun, -, ht⟩ := run_keeps (fun s => ParamsLegal s.params ∧ s.Inv)
    (fun s t hs hst => ⟨(step_params s t hst).symm ▸ hs.1, cyclesKeepTheInvariants s t hs.1 hs.2 hst⟩)
    n (State.resetWith p is) ⟨hp, Block.reset_inv _ _ _⟩
  exact ⟨t, hrun, ht⟩

end Sys2Proof.Machine
end

/-! ## States that differ only in unwritten buffer entries (10_state.md R53, R54, R240) -/

section
namespace Sys2Proof.Machine

/-! ### Buffers that agree below an index -/

/-- Two frame buffers hold the same entries below index `k`. -/
def BufAgree {n : Nat} (k : Nat) (a b : Vector Dur n) : Prop := ∀ i, i < k → bufRead a i = bufRead b i

theorem BufAgree.mono {n k m : Nat} {a b : Vector Dur n} (h : BufAgree k a b) (hm : m ≤ k) :
    BufAgree m a b := fun i hi => h i (lt_of_lt_of_le hi hm)

theorem bufRead_of_ge {n : Nat} (b : Vector Dur n) (i : Nat) (h : n ≤ i) : bufRead b i = 0 := by
  simp [bufRead, h]

/-- R75: a write at the end of the common part extends it by one entry. -/
theorem BufAgree.bufWrite {n k : Nat} {a b : Vector Dur n} (h : BufAgree k a b) (d : Dur) :
    BufAgree (k + 1) (bufWrite a k d) (bufWrite b k d) := by
  intro i hi
  by_cases hik : i = k
  · subst hik
    by_cases hin : i < n
    · rw [bufRead_bufWrite_same _ _ _ hin, bufRead_bufWrite_same _ _ _ hin]
    · rw [bufRead_of_ge _ _ (by omega), bufRead_of_ge _ _ (by omega)]
  · rw [bufRead_bufWrite_other _ _ _ _ hik, bufRead_bufWrite_other _ _ _ _ hik]
    exact h i (by omega)

/-- Buffers that agree on every entry are equal. -/
theorem BufAgree.eq {n : Nat} {a b : Vector Dur n} (h : BufAgree n a b) : a = b := by
  apply Vector.ext
  intro i hi
  have hread := h i hi
  simpa [bufRead, hi] using hread

/-! ### The two decoders -/

theorem CocoState.agree_iff (a b : CocoState) :
    a.Agree b ↔ ∃ B, BufAgree a.idx.toNat a.buf B ∧ b = { a with buf := B } := by
  refine ⟨fun ⟨heq, hbuf⟩ => ⟨b.buf, hbuf, heq.symm⟩, ?_⟩
  rintro ⟨B, hbuf, rfl⟩
  exact ⟨rfl, hbuf⟩

theorem KfsState.agree_iff (a b : KfsState) :
    a.Agree b ↔ ∃ B, BufAgree a.idx.toNat a.buf B ∧ b = { a with buf := B } := by
  refine ⟨fun ⟨heq, hbuf⟩ => ⟨b.buf, hbuf, heq.symm⟩, ?_⟩
  rintro ⟨B, hbuf, rfl⟩
  exact ⟨rfl, hbuf⟩

/-- The filter neither reads nor writes a frame buffer. -/
theorem cocoFilter_withBuf (S S' : CocoState) (b b' : Vector Dur Config.cocoBufDepth)
    (code : BitVec 32) (t : Word) :
    cocoFilter { S with buf := b } { S' with buf := b' } code t
      = ({ (cocoFilter S S' code t).1 with buf := b' }, (cocoFilter S S' code t).2) := by
  simp only [cocoFilter]; split <;> rfl

theorem kfsFilter_withBuf (S S' : KfsState) (b b' : Vector Dur Config.kfsBufDepth)
    (code : BitVec 24) (len : BitVec 5) (t : Word) :
    kfsFilter { S with buf := b } { S' with buf := b' } code len t
      = ({ (kfsFilter S S' code len t).1 with buf := b' }, (kfsFilter S S' code len t).2) := by
  simp only [kfsFilter]; split <;> rfl

/-- CocoAnalyze reads the buffer it is given, and no other. -/
theorem cocoAnalyze_withBuf (S S' : CocoState) (b b' B : Vector Dur Config.cocoBufDepth) (org : Word) :
    cocoAnalyze { S with buf := b } { S' with buf := b' } B org
      = ({ (cocoAnalyze S S' B org).1 with buf := b' }, (cocoAnalyze S S' B org).2) := by
  simp only [cocoAnalyze]
  split
  · rfl
  · exact cocoFilter_withBuf S { S' with eff := cocoEff B } b b' _ _

/-- R136: the pair walk over `n` stored entries reads no entry from `n` up. -/
theorem kfsWalkFrom_congr (cfg : DecoderCfg) (B B' : Vector Dur Config.kfsBufDepth) (n : Nat)
    (h : BufAgree n B B') (room j : Nat) (code : BitVec 24) (bits : Nat) :
    kfsWalkFrom cfg B n room j code bits = kfsWalkFrom cfg B' n room j code bits := by
  induction room generalizing j code bits with
  | zero => rfl
  | succ room ih =>
    simp only [kfsWalkFrom]
    split
    · have hpair : kfsPair cfg B j = kfsPair cfg B' j := by
        simp only [kfsPair, h j (by omega), h (j + 1) (by omega)]
      rw [hpair]
      split
      · rfl
      · exact ih _ _ _
    · rfl

theorem kfsAnalyze_withBuf (S S' : KfsState) (b b' B B' : Vector Dur Config.kfsBufDepth) (n : Nat)
    (org : Word) (h : BufAgree n B B') :
    kfsAnalyze { S with buf := b } { S' with buf := b' } B' n org
      = ({ (kfsAnalyze S S' B n org).1 with buf := b' }, (kfsAnalyze S S' B n org).2) := by
  have hwalk : kfsWalk S.cfg B' n = kfsWalk S.cfg B n := (kfsWalkFrom_congr S.cfg B B' n h _ _ _ _).symm
  simp only [kfsAnalyze, hwalk]
  split
  · exact kfsFilter_withBuf S S' b b' _ _ _
  · rfl

/-- R111 to R113: Analyze runs once the last entry is written, so every entry it reads is one that was
written before or the duration of this edge. -/
theorem cocoEdge_withBuf (S S' : CocoState) (b b' : Vector Dur Config.cocoBufDepth) (ts : Word)
    (h : BufAgree S.idx.toNat S.buf b) :
    ∃ B, cocoEdge { S with buf := b } { S' with buf := b' } ts
      = ({ (cocoEdge S S' ts).1 with buf := B }, (cocoEdge S S' ts).2) := by
  have hidx : cocoStoreIdx { S with buf := b } (duration ts S.lastTs)
      = cocoStoreIdx S (duration ts S.lastTs) := rfl
  simp only [cocoEdge, hidx]
  split
  · rename_i hend
    have hi : (cocoStoreIdx S (duration ts S.lastTs)).toNat = 130 := by
      simp only [Bool.and_eq_true, beq_iff_eq] at hend
      exact hend.2
    have hle : 130 ≤ S.idx.toNat := by
      rw [cocoStoreIdx_toNat] at hi
      split at hi <;> omega
    have hbuf : bufWrite S.buf 130 (duration ts S.lastTs) = bufWrite b 130 (duration ts S.lastTs) :=
      ((h.mono hle).bufWrite _).eq
    rw [hi, ← hbuf]
    exact ⟨_, cocoAnalyze_withBuf S { S' with
      lastTs := ts
      origin := _
      buf := _
      idx := _ } b _ _ _⟩
  · exact ⟨_, rfl⟩

/-- R132, R135: Analyze reads the entries below the write index, and no other. -/
theorem kfsEdge_withBuf (S S' : KfsState) (b b' : Vector Dur Config.kfsBufDepth) (ts : Word)
    (h : BufAgree S.idx.toNat S.buf b) :
    ∃ B, kfsEdge { S with buf := b } { S' with buf := b' } ts
      = ({ (kfsEdge S S' ts).1 with buf := B }, (kfsEdge S S' ts).2) := by
  simp only [kfsEdge]
  split
  · split
    · rw [kfsAnalyze_withBuf S S' b b' S.buf b _ _ h]
      exact ⟨_, rfl⟩
    · exact ⟨_, rfl⟩
  · exact ⟨_, rfl⟩

/-- R111: the entries that a COCO edge leaves below its write index are those below the index it stored
at, and the one it stored. -/
theorem cocoEdge_idx_le_store (S S' : CocoState) (ts : Word) :
    (cocoEdge S S' ts).1.idx.toNat ≤ (cocoStoreIdx S (duration ts S.lastTs)).toNat + 1 := by
  obtain ⟨-, -, -, -, hidx, -⟩ := cocoEdge_frame S S' ts
  rw [hidx]
  split
  · exact Nat.zero_le _
  · rw [BitVec.toNat_add]
    exact Nat.mod_le _ _

theorem cocoStoreIdx_le (S : CocoState) (d : Dur) : (cocoStoreIdx S d).toNat ≤ S.idx.toNat := by
  rw [cocoStoreIdx_toNat]
  split
  · exact Nat.zero_le _
  · exact le_rfl

/-- An edge of two COCO decoders that agree leaves two that agree, and both or neither accept. -/
theorem CocoState.Agree.edge {a b : CocoState} (h : a.Agree b) (ts : Word) :
    (cocoEdge a { a with strobe := false } ts).1.Agree (cocoEdge b { b with strobe := false } ts).1
      ∧ (cocoEdge a { a with strobe := false } ts).2 = (cocoEdge b { b with strobe := false } ts).2 := by
  obtain ⟨B, hbuf, rfl⟩ := (CocoState.agree_iff a b).1 h
  obtain ⟨B', hedge⟩ := cocoEdge_withBuf a { a with strobe := false } B B ts hbuf
  obtain ⟨-, -, -, hwrite, -⟩ := cocoEdge_frame a { a with strobe := false } ts
  obtain ⟨-, -, -, hwrite', -⟩ := cocoEdge_frame { a with buf := B } { a with buf := B, strobe := false } ts
  rw [hedge] at hwrite' ⊢
  refine ⟨(CocoState.agree_iff _ _).2 ⟨B', ?_, rfl⟩, rfl⟩
  have hstored := ((hbuf.mono (cocoStoreIdx_le a (duration ts a.lastTs))).bufWrite (duration ts a.lastTs))
  rw [hwrite, show B' = _ from hwrite']
  exact hstored.mono (cocoEdge_idx_le_store a _ ts)

/-- An edge of two KFS decoders that agree leaves two that agree, and both or neither accept. -/
theorem KfsState.Agree.edge {a b : KfsState} (h : a.Agree b) (ts : Word) :
    (kfsEdge a { a with strobe := false } ts).1.Agree (kfsEdge b { b with strobe := false } ts).1
      ∧ (kfsEdge a { a with strobe := false } ts).2 = (kfsEdge b { b with strobe := false } ts).2 := by
  obtain ⟨B, hbuf, rfl⟩ := (KfsState.agree_iff a b).1 h
  obtain ⟨B', hedge⟩ := kfsEdge_withBuf a { a with strobe := false } B B ts hbuf
  obtain ⟨-, -, hfirst, hlater, -⟩ := kfsEdge_frame a { a with strobe := false } ts
  obtain ⟨-, -, hfirst', hlater', -⟩ := kfsEdge_frame { a with buf := B } { a with buf := B, strobe := false } ts
  rw [hedge] at hfirst' hlater' ⊢
  refine ⟨(KfsState.agree_iff _ _).2 ⟨B', ?_, rfl⟩, rfl⟩
  by_cases hseen : a.seen = true
  · obtain ⟨-, -, hwrite, hidx⟩ := hlater hseen
    obtain ⟨-, -, hwrite', -⟩ := hlater' hseen
    rw [hwrite, show B' = _ from hwrite', hidx, BitVec.toNat_ofNat]
    refine BufAgree.mono (BufAgree.bufWrite (hbuf.mono ?_) _) (Nat.mod_le _ _)
    split
    · exact Nat.zero_le _
    · split
      · exact Nat.zero_le _
      · exact le_rfl
  · rw [Bool.not_eq_true] at hseen
    have hB : B' = B := congrArg (fun r : KfsState × Bool => r.1.buf) (hfirst' hseen)
    rw [hfirst hseen, hB]
    exact hbuf

/-! ### The edge slots -/

theorem cocoSlot_agree {s t : State} (c : CycleIn) (h : s.blk.coco.Agree t.blk.coco) :
    (cocoSlot c s).1.Agree (cocoSlot c t).1 ∧ (cocoSlot c s).2 = (cocoSlot c t).2 := by
  unfold cocoSlot
  split
  · exact h.edge c.t
  · obtain ⟨B, hbuf, hb⟩ := (CocoState.agree_iff _ _).1 h
    rw [hb]
    exact ⟨(CocoState.agree_iff _ _).2 ⟨B, hbuf, rfl⟩, rfl⟩

theorem kfsSlot_agree {s t : State} (c : CycleIn) (h : s.blk.kfs.Agree t.blk.kfs) :
    (kfsSlot c s).1.Agree (kfsSlot c t).1 ∧ (kfsSlot c s).2 = (kfsSlot c t).2 := by
  unfold kfsSlot
  split
  · exact h.edge c.u
  · obtain ⟨B, hbuf, hb⟩ := (KfsState.agree_iff _ _).1 h
    rw [hb]
    exact ⟨(KfsState.agree_iff _ _).2 ⟨B, hbuf, rfl⟩, rfl⟩

/-! ### The whole block with other buffers -/

/-- The block with other frame buffers. -/
def Block.withBufs (b : Block) (cb : Vector Dur Config.cocoBufDepth) (kb : Vector Dur Config.kfsBufDepth) :
    Block :=
  { b with coco := { b.coco with buf := cb }, kfs := { b.kfs with buf := kb } }

/-- The state with other frame buffers, in `S'` and in `S`. -/
def State.withBufs (s : State) (cb cb' : Vector Dur Config.cocoBufDepth)
    (kb kb' : Vector Dur Config.kfsBufDepth) : State :=
  { s with blk := s.blk.withBufs cb kb, pre := s.pre.withBufs cb' kb' }

/-- R54: no register reads a frame buffer. -/
theorem pack_withBufs (b : Block) (cb : Vector Dur Config.cocoBufDepth)
    (kb : Vector Dur Config.kfsBufDepth) (a : Addr) : pack (b.withBufs cb kb) a = pack b a := rfl

/-- Two states agree when the blocks do up to their buffers, and the fields beside them are equal. -/
theorem State.agree_iff (s t : State) :
    s.Agree t ↔ ∃ cb kb, BufAgree s.blk.coco.idx.toNat s.blk.coco.buf cb
      ∧ BufAgree s.blk.kfs.idx.toNat s.blk.kfs.buf kb ∧ t.blk = s.blk.withBufs cb kb
      ∧ s.busRdata = t.busRdata ∧ s.inputs = t.inputs ∧ s.params = t.params ∧ s.freeCtr = t.freeCtr := by
  constructor
  · rintro ⟨hcoco, hkfs, hblk, hrest⟩
    obtain ⟨cb, hcb, hc⟩ := (CocoState.agree_iff _ _).1 hcoco
    obtain ⟨kb, hkb, hk⟩ := (KfsState.agree_iff _ _).1 hkfs
    refine ⟨cb, kb, hcb, hkb, ?_, hrest⟩
    rw [← hblk, hc, hk]
    rfl
  · rintro ⟨cb, kb, hcb, hkb, hblk, hrest⟩
    rw [State.Agree, hblk]
    exact ⟨(CocoState.agree_iff _ _).2 ⟨cb, hcb, rfl⟩, (KfsState.agree_iff _ _).2 ⟨kb, hkb, rfl⟩, rfl, hrest⟩

/-- R66: a bus operation neither reads nor writes a frame buffer. -/
theorem bus_withBufs (i : Instr) (s : State) (hs : i.slot = .bus)
    (cb cb' : Vector Dur Config.cocoBufDepth) (kb kb' : Vector Dur Config.kfsBufDepth) :
    applyOp i (s.withBufs cb cb' kb kb') = (applyOp i s).withBufs cb cb' kb kb' := by
  cases i <;> simp only [Instr.slot, reduceCtorEq] at hs
  case wrTxCtrl d =>
    have hbusy : (s.withBufs cb cb' kb kb').pre.seq.busy = s.pre.seq.busy := rfl
    have hparams : (s.withBufs cb cb' kb kb').params = s.params := rfl
    simp only [applyOp, exec, execWrTxCtrl, hbusy, hparams]
    split
    · split
      · rfl
      · split <;> rfl
    · rfl
  case nop | reserved | rd | wrStatus | wrIrqEn | wrIgnored => rfl
  all_goals
    simp only [applyOp, exec, execWrCocoNominal, execWrCocoTol, execWrCocoRepeat, execWrCocoRefract,
      execWrKfsNominal, execWrKfsTol, execWrKfsRepeat, execWrKfsRefract, execWrTxCocoUnit, execWrTxKfsUnit,
      execWrTxCocoMsg, execWrTxKfsMsg, checkedWrite]
    split <;> rfl

/-! ### A cycle, and any number of them -/

/-- Other buffers that agree below the write indices give a state that agrees. -/
theorem State.agree_withBufs (s : State) (cb cb' : Vector Dur Config.cocoBufDepth)
    (kb kb' : Vector Dur Config.kfsBufDepth) (hc : BufAgree s.blk.coco.idx.toNat s.blk.coco.buf cb)
    (hk : BufAgree s.blk.kfs.idx.toNat s.blk.kfs.buf kb) : s.Agree (s.withBufs cb cb' kb kb') :=
  (State.agree_iff _ _).2 ⟨cb, kb, hc, hk, rfl, rfl, rfl, rfl, rfl⟩

/-- The edge and tx slots of two states that agree leave two that differ only in unwritten entries. -/
theorem State.Agree.afterSlots {s t : State} (h : s.Agree t) (c : CycleIn) :
    ∃ cb cb' kb kb', t.afterSlots c = (s.afterSlots c).withBufs cb cb' kb kb'
      ∧ BufAgree (s.afterSlots c).blk.coco.idx.toNat (s.afterSlots c).blk.coco.buf cb
      ∧ BufAgree (s.afterSlots c).blk.kfs.idx.toNat (s.afterSlots c).blk.kfs.buf kb := by
  obtain ⟨hcocoEdge, hcocoAcc⟩ := cocoSlot_agree c h.1
  obtain ⟨hkfsEdge, hkfsAcc⟩ := kfsSlot_agree c h.2.1
  obtain ⟨cb, hcb, hcoco⟩ := (CocoState.agree_iff _ _).1 hcocoEdge
  obtain ⟨kb, hkb, hkfs⟩ := (KfsState.agree_iff _ _).1 hkfsEdge
  obtain ⟨cb', kb', -, -, hblk, -, hinputs, hparams, hctr⟩ := (State.agree_iff s t).1 h
  have htx : txSlot t = txSlot s := by
    rw [txSlot, hblk, ← hparams]
    rfl
  refine ⟨cb, cb', kb, kb', ?_, hcb, hkb⟩
  simp only [State.afterSlots, hcoco, hkfs, ← hcocoAcc, ← hkfsAcc, htx, hblk, ← hinputs, ← hparams, ← hctr]
  rfl

/-- Two states that agree have the same registers, message ports, interrupt and output lines. -/
theorem State.Agree.sameOutside {s t : State} (h : s.Agree t) : s.SameOutside t := by
  obtain ⟨cb, kb, -, -, hblk, hbus, -⟩ := (State.agree_iff s t).1 h
  rw [State.SameOutside, hblk]
  exact ⟨fun a => (pack_withBufs s.blk cb kb a).symm, hbus, rfl, rfl, rfl, rfl, rfl, rfl, rfl, rfl,
    fun _ => rfl⟩

/-- A cycle of two states that agree leaves two that agree. -/
theorem State.Agree.cycle {s t s' : State} (h : s.Agree t) (c : CycleIn)
    (hc : Machine.cycle c s = .next s') : ∃ t', Machine.cycle c t = .next t' ∧ s'.Agree t' := by
  cases hrst : c.rst
  · rw [cycle_of_running c s hrst] at hc
    cases hc
    refine ⟨_, cycle_of_running c t hrst, ?_⟩
    have hbus := (decodeBus_wellFormed c).2
    obtain ⟨cb, cb', kb, kb', hslots, hcb, hkb⟩ := h.afterSlots c
    obtain ⟨f, hf⟩ := bus_coco (decodeBus c) hbus
    obtain ⟨g, hg⟩ := bus_kfs (decodeBus c) hbus
    rw [hslots, bus_withBufs _ _ hbus]
    refine State.agree_withBufs _ cb cb' kb kb' ?_ ?_
    · rw [hf]
      exact hcb
    · rw [hg]
      exact hkb
  · rw [cycle_of_reset c s hrst] at hc
    cases hc
    refine ⟨_, cycle_of_reset c t hrst, ?_⟩
    obtain ⟨-, -, -, -, hinputs, hparams, hctr⟩ := h
    rw [applyOp_reset, applyOp_reset, State.openCycle_freeCtr, State.openCycle_freeCtr, ← hctr]
    refine (State.agree_iff _ _).2 ⟨_, _, fun _ _ => rfl, fun _ _ => rfl, rfl, rfl, ?_, hparams, rfl⟩
    exact congrArg List.tail hinputs

/-- Settles O56: agreeing states present the same inputs, and a cycle reads a buffer only below its write
index or where it has just written. -/
theorem cyclesNeverReadUnwrittenEntries : Obligations.CyclesNeverReadUnwrittenEntries := by
  intro s t s' h hstep
  obtain ⟨-, -, -, -, hinputs, -⟩ := id h
  have hnext : t.nextInput = s.nextInput := by rw [State.nextInput, State.nextInput, hinputs]
  rw [step, hnext]
  exact h.cycle s.nextInput hstep

/-- States that agree still agree after any number of steps. -/
theorem State.Agree.run {s t : State} (h : s.Agree t) (n : Nat) :
    ∃ s' t', core.run n s = .next s' ∧ core.run n t = .next t' ∧ s'.Agree t' := by
  induction n generalizing s t with
  | zero => exact ⟨s, t, rfl, rfl, h⟩
  | succ n ih =>
    obtain ⟨u, hu⟩ := step_next s
    obtain ⟨v, hv, huv⟩ := cyclesNeverReadUnwrittenEntries s t u h hu
    rw [run_succ n s u hu, run_succ n t v hv]
    exact ih huv

/-- Settles O57: after reset no entry is below a write index, so any two buffer contents agree. -/
theorem resetBufferContentsAreUnobservable : Obligations.ResetBufferContentsAreUnobservable := by
  intro s cb cb' kb kb' n
  have hreset : State.Agree { s with blk := Block.reset cb kb } { s with blk := Block.reset cb' kb' } :=
    (State.agree_iff _ _).2 ⟨cb', kb', fun i hi => absurd hi (Nat.not_lt_zero i),
      fun i hi => absurd hi (Nat.not_lt_zero i), rfl, rfl, rfl, rfl, rfl⟩
  obtain ⟨t, t', ht, ht', hagree⟩ := hreset.run n
  exact ⟨t, t', ht, ht', hagree.sameOutside⟩

end Sys2Proof.Machine
end

/-! ## The sticky bits over a cycle (20_memory.md R69) -/

section
namespace Sys2Proof.Machine

/-- R29: the clear wires of a cycle with R = 0 are those of its bus operation. -/
theorem bus_clr_eq_clearWires (c : CycleIn) (s : State) (hrst : c.rst = false) (hs : s.clr = .none) :
    (applyOp (decodeBus c) s).clr = clearWires c := by
  obtain ⟨hstatus, hother⟩ := bus_clr (decodeBus c) s (decodeBus_wellFormed c).2
  unfold clearWires
  split
  · rename_i d hd
    rw [hrst]
    exact hstatus d hd
  · rename_i hne
    rw [hother hne, hs]

/-- R66: a bus operation drives none of the wires of the edge and tx slots. -/
theorem bus_set (i : Instr) (s : State) (hs : i.slot = .bus) :
    (applyOp i s).set.cocoMsg = s.set.cocoMsg ∧ (applyOp i s).set.kfsMsg = s.set.kfsMsg
      ∧ (applyOp i s).set.txDone = s.set.txDone := by
  have heff := bus_effect i s hs
  generalize applyOp i s = t at heff ⊢
  cases heff <;> exact ⟨rfl, rfl, rfl⟩

/-- R165: a bus operation changes the sequencer only by a start, which an idle pre-state alone allows. -/
theorem bus_seq (i : Instr) (s : State) (hs : i.slot = .bus) (hbusy : s.pre.seq.busy = true) :
    (applyOp i s).blk.seq = s.blk.seq := by
  have heff := bus_effect i s hs
  generalize applyOp i s = t at heff ⊢
  cases heff with
  | start d t hi ht hidle => exact absurd hbusy (by simp [hidle])
  | _ => rfl

/-- R156: the COCO strobe after its slot is the accept of that slot. -/
theorem cocoSlot_strobe (c : CycleIn) (s : State) : (cocoSlot c s).1.strobe = (cocoSlot c s).2 := by
  unfold cocoSlot
  split
  · obtain ⟨-, -, -, -, -, hkeep, haccept⟩ := cocoEdge_frame s.blk.coco { s.blk.coco with strobe := false } c.t
    cases hr : (cocoEdge s.blk.coco { s.blk.coco with strobe := false } c.t).2
    · exact hkeep hr
    · exact (haccept hr).1
  · rfl

theorem kfsSlot_strobe (c : CycleIn) (s : State) : (kfsSlot c s).1.strobe = (kfsSlot c s).2 := by
  unfold kfsSlot
  split
  · obtain ⟨-, -, -, -, hkeep, haccept⟩ := kfsEdge_frame s.blk.kfs { s.blk.kfs with strobe := false } c.u
    cases hr : (kfsEdge s.blk.kfs { s.blk.kfs with strobe := false } c.u).2
    · exact hkeep hr
    · exact (haccept hr).1
  · rfl

/-- R167: the tx slot completes exactly when it ends a transmission. -/
theorem txSlot_done (s : State) : (txSlot s).2 = (s.blk.seq.busy && !(txSlot s).1.busy) := by
  unfold txSlot
  split
  · rename_i hbusy
    rw [seqTick_busy _ _ _ hbusy, hbusy, Bool.true_and]
  · rename_i hidle
    simp [hidle]

/-- Settles O10: every operation keeps the sticky bits merged, the bus operation alone drives the clear
wires, and the event wires of the other slots are their strobes and their completion. -/
theorem stickyBitsMerge : Obligations.StickyBitsMerge := by
  intro s t c hrst hc
  rw [cycle_of_running c s hrst] at hc
  cases hc
  obtain ⟨-, hbus⟩ := decodeBus_wellFormed c
  have hne : decodeBus c ≠ .reset := fun h => by simp [h, Instr.slot] at hbus
  have hmerged := applyOp_merged (decodeBus c) (s.afterSlots c) hne (afterSlots_merged c s)
  obtain ⟨hpre, -⟩ := applyOp_frame (decodeBus c) (s.afterSlots c)
  have hclr := bus_clr_eq_clearWires c (s.afterSlots c) hrst rfl
  obtain ⟨hcocoWire, hkfsWire, hdoneWire⟩ := bus_set (decodeBus c) (s.afterSlots c) hbus
  obtain ⟨f, hf⟩ := bus_coco (decodeBus c) hbus
  obtain ⟨g, hg⟩ := bus_kfs (decodeBus c) hbus
  have hmerged' : (applyOp (decodeBus c) (s.afterSlots c)).blk.st
      = Sticky.merge s.blk.st (clearWires c) (applyOp (decodeBus c) (s.afterSlots c)).set := by
    rw [hmerged, hpre, hclr]
    rfl
  refine ⟨congrArg Sticky.cocoMsg hmerged', congrArg Sticky.kfsMsg hmerged', congrArg Sticky.cfgErr hmerged',
    congrArg Sticky.txErr hmerged', congrArg Sticky.txDone hmerged', ?_, ?_, ?_⟩
  · rw [hcocoWire, hf]
    exact (cocoSlot_strobe c s).symm
  · rw [hkfsWire, hg]
    exact (kfsSlot_strobe c s).symm
  · rw [hdoneWire]
    refine (txSlot_done s).trans ?_
    cases hbusy : s.blk.seq.busy
    · rfl
    · rw [bus_seq _ _ hbus hbusy]
      rfl

end Sys2Proof.Machine
end

/-! ## Registers as the host reads them (10_state.md R30 to R55, 45_host_interface.md R180) -/

section
namespace Sys2Proof.Machine

/-! ### The packed registers as numbers -/

theorem place_zero_toNat {n : Nat} (v : BitVec n) (h : n ≤ 64) : (place 0 v).toNat = v.toNat := by
  rw [place_toNat 0 v h, Nat.pow_zero, Nat.mul_one]

/-- A field placed above another. -/
theorem place_or_toNat {n m : Nat} (lo : Nat) (v : BitVec n) (w : BitVec m) (hv : n + lo ≤ 64)
    (hw : m ≤ lo) : (place lo v ||| place 0 w).toNat = v.toNat * 2 ^ lo + w.toNat := by
  have hlow := place_zero_toNat w (by omega)
  have hhigh := place_toNat lo v hv
  rw [or_toNat_of_lt lo (by rw [hhigh]; exact Nat.mul_mod_left _ _), hhigh, hlow]
  rw [hlow]
  exact lt_of_lt_of_le w.isLt (Nat.pow_le_pow_right (by decide) hw)

theorem win_max_lt (cfg : DecoderCfg) (n : Nat) (hn : n ≤ 40) : (win cfg n).max < 2 ^ 24 := by
  have hnom := cfg.nom.isLt
  have hpos := cfg.pos.isLt
  have hprod : cfg.nom.toNat * n * (100 + cfg.pos.toNat) ≤ 65535 * 40 * 355 :=
    Nat.mul_le_mul (Nat.mul_le_mul (by omega) hn) (by omega)
  simp only [win]
  omega

theorem win_min_le_max (cfg : DecoderCfg) (n : Nat) : (win cfg n).min ≤ (win cfg n).max :=
  Nat.div_le_div_right (Nat.mul_le_mul_left _ (by omega))

/-- R38: a window register reads its two bounds, whatever the configuration holds. -/
theorem packWindow_toNat (cfg : DecoderCfg) (n : Nat) (hn : n ≤ 40) :
    (packWindow (win cfg n)).toNat = (win cfg n).max * 2 ^ 32 + (win cfg n).min := by
  have hmax := win_max_lt cfg n hn
  have hmin := lt_of_le_of_lt (win_min_le_max cfg n) hmax
  rw [packWindow, place_or_toNat 32 _ _ (by decide) (by decide), BitVec.toNat_ofNat, BitVec.toNat_ofNat,
    Nat.mod_eq_of_lt hmax, Nat.mod_eq_of_lt hmin]

/-- A word with one more field below those it has. -/
theorem or_place_toNat {x : Word} {a n : Nat} (hx : x.toNat = a) (lo k : Nat) (v : BitVec n)
    (hk : n + lo ≤ k) (h64 : k ≤ 64) (ha : a % 2 ^ k = 0) :
    (x ||| place lo v).toNat = a + v.toNat * 2 ^ lo := by
  have hv := place_toNat lo v (le_trans hk h64)
  have hlt : v.toNat * 2 ^ lo < 2 ^ k :=
    calc v.toNat * 2 ^ lo < 2 ^ n * 2 ^ lo := Nat.mul_lt_mul_of_pos_right v.isLt (Nat.two_pow_pos lo)
      _ = 2 ^ (n + lo) := (Nat.pow_add 2 n lo).symm
      _ ≤ 2 ^ k := Nat.pow_le_pow_right (by decide) hk
  rw [or_toNat_of_lt k (by rw [hx, ha]) (by rw [hv]; exact hlt), hx, hv]

theorem or_placeBit_toNat {x : Word} {a : Nat} (hx : x.toNat = a) (lo k : Nat) (b : Bool)
    (hk : 1 + lo ≤ k) (h64 : k ≤ 64) (ha : a % 2 ^ k = 0) :
    (x ||| placeBit lo b).toNat = a + b.toNat * 2 ^ lo := by
  rw [placeBit, or_place_toNat hx lo k _ hk h64 ha, BitVec.toNat_ofBool]

/-- R31: STATUS has the sticky bits at 0 to 4 and TX_BUSY at 8. -/
theorem packStatus_toNat (S : Block) :
    (packStatus S).toNat = S.st.cocoMsg.toNat + 2 * S.st.kfsMsg.toNat + 4 * S.st.cfgErr.toNat
      + 8 * S.st.txErr.toNat + 16 * S.st.txDone.toNat + 256 * S.seq.busy.toNat := by
  have hbits : ∀ b0 b1 b2 b3 b4 b8 : Bool,
      (placeBit 0 b0 ||| placeBit 1 b1 ||| placeBit 2 b2 ||| placeBit 3 b3 ||| placeBit 4 b4
        ||| placeBit 8 b8).toNat
      = b0.toNat + 2 * b1.toNat + 4 * b2.toNat + 8 * b3.toNat + 16 * b4.toNat + 256 * b8.toNat := by
    decide
  exact hbits _ _ _ _ _ _

/-- R48: TX_CTRL has TX_BUSY at 8, PIN at 4 and PROTO at 1. -/
theorem packTxCtrl_toNat (S : Block) :
    (packTxCtrl S).toNat
      = S.seq.busy.toNat * 2 ^ 8 + S.tx.pin.toNat * 2 ^ 4 + S.tx.proto.bit.toNat * 2 := by
  have hbusy := placeBit_toNat 8 S.seq.busy (by decide)
  have hpin := or_place_toNat hbusy 4 8 S.tx.pin (by decide) (by decide) (by omega)
  exact or_placeBit_toNat hpin 1 4 S.tx.proto.bit (by decide) (by decide) (by omega)

/-- R52: TX_POS has PIN at 20, PROTO at 17, LEVEL at 16, REP at 8 and IDX at 0. -/
theorem packTxPos_toNat (q : Seq) :
    (packTxPos q).toNat = q.pin.toNat * 2 ^ 20 + q.proto.bit.toNat * 2 ^ 17 + q.level.toNat * 2 ^ 16
      + q.rep.toNat * 2 ^ 8 + q.idx.toNat := by
  have hpin := place_toNat 20 q.pin (by decide)
  have hproto := or_placeBit_toNat hpin 17 20 q.proto.bit (by decide) (by decide) (by omega)
  have hlevel := or_placeBit_toNat hproto 16 17 q.level (by decide) (by decide) (by omega)
  have hrep := or_place_toNat hlevel 8 16 q.rep (by decide) (by decide) (by omega)
  have hidx := or_place_toNat hrep 0 8 q.idx (by decide) (by decide) (by omega)
  rwa [Nat.pow_zero, Nat.mul_one] at hidx

/-- R52: TX_LATCH has UNIT at 48, LEN at 32 and MSG at 0. -/
theorem packTxLatch_toNat (q : Seq) :
    (packTxLatch q).toNat = q.unit.toNat * 2 ^ 48 + q.len.toNat * 2 ^ 32 + q.msg.toNat := by
  have hunit := place_toNat 48 q.unit (by decide)
  have hlen := or_place_toNat hunit 32 48 q.len (by decide) (by decide) (by omega)
  have hmsg := or_place_toNat hlen 0 32 q.msg (by decide) (by decide) (by omega)
  rwa [Nat.pow_zero, Nat.mul_one] at hmsg

/-- R45: KFS_IDX has SEEN at 8 and IDX at 0. -/
theorem packKfsIdx_toNat (k : KfsState) :
    (placeBit 8 k.seen ||| place 0 k.idx).toNat = k.seen.toNat * 2 ^ 8 + k.idx.toNat := by
  rw [placeBit, place_or_toNat 8 _ _ (by decide) (by decide), BitVec.toNat_ofBool]

/-- R35, R43: COCO_TOL and KFS_TOL have NEG at 8 and POS at 0. -/
theorem packTol_toNat (cfg : DecoderCfg) :
    (packTol cfg).toNat = cfg.neg.toNat * 2 ^ 8 + cfg.pos.toNat :=
  place_or_toNat 8 _ _ (by decide) (by decide)

/-- A KFS message register has LEN at 32 and the identifier at 0 (R46, R47, R51). -/
theorem packKfsMsg_toNat (len : BitVec 5) (id : BitVec 24) :
    (place 32 len ||| place 0 id).toNat = len.toNat * 2 ^ 32 + id.toNat :=
  place_or_toNat 32 _ _ (by decide) (by decide)

/-- Settles O20: the register map gives each address its packed word, and the lemmas above read it as a
number. -/
theorem registerReadsPackTheFields : Obligations.RegisterReadsPackTheFields := fun S =>
  have word {n : Nat} (v : BitVec n) (h : n ≤ 64) := place_zero_toNat v h
  ⟨packStatus_toNat S, word S.irqEn (by decide), word S.errCause (by decide),
    word S.coco.cfg.nom (by decide), packTol_toNat S.coco.cfg, word S.coco.cfg.rep (by decide),
    word S.coco.cfg.ref (by decide), packWindow_toNat S.coco.cfg 1 (by decide),
    packWindow_toNat S.coco.cfg 4 (by decide), packWindow_toNat S.coco.cfg 10 (by decide),
    packWindow_toNat S.coco.cfg 40 (by decide), word S.coco.idx (by decide), rfl, rfl,
    word S.coco.prevCode (by decide), word S.coco.reps (by decide), rfl, word S.coco.eff (by decide), rfl,
    word S.coco.msgCode (by decide),
    word S.kfs.cfg.nom (by decide), packTol_toNat S.kfs.cfg, word S.kfs.cfg.rep (by decide),
    word S.kfs.cfg.ref (by decide), packWindow_toNat S.kfs.cfg 1 (by decide),
    packWindow_toNat S.kfs.cfg 3 (by decide), packWindow_toNat S.kfs.cfg 31 (by decide),
    packKfsIdx_toNat S.kfs, rfl, rfl, packKfsMsg_toNat S.kfs.prevLen S.kfs.prevCode,
    word S.kfs.reps (by decide), rfl, rfl, packKfsMsg_toNat S.kfs.msgLen S.kfs.msgId,
    packTxCtrl_toNat S, word S.tx.cocoUnit (by decide), word S.tx.kfsUnit (by decide),
    word S.tx.cocoMsg (by decide), packKfsMsg_toNat S.tx.kfsLen S.tx.kfsId,
    packTxPos_toNat S.seq, rfl, packTxLatch_toNat S.seq⟩

end Sys2Proof.Machine
end

/-! ## Reserved bits, reset values, the interrupt line and RESET (10_state.md R30, R55, R56; R215) -/

section
namespace Sys2Proof.Machine

/-! ### Reserved bits (R55) -/

/-- A word has no bit outside the mask `m`. -/
def InMask (m w : Word) : Prop := w &&& ~~~ m = 0

theorem InMask.or {m x y : Word} (hx : InMask m x) (hy : InMask m y) : InMask m (x ||| y) := by
  rw [InMask, BitVec.and_or_distrib_right, hx, hy]
  rfl

theorem InMask.place {m : Word} {n : Nat} (lo : Nat) (v : BitVec n)
    (h : place lo (BitVec.allOnes n) &&& ~~~ m = 0) : InMask m (place lo v) := place_masked lo v m h

theorem inMask_full (w : Word) : InMask 0xFFFFFFFFFFFFFFFF w := by
  have hfull : ~~~ (0xFFFFFFFFFFFFFFFF : Word) = 0#64 := by decide
  rw [InMask, hfull]
  exact BitVec.and_zero

theorem inMask_packWindow (w : Window) : InMask 0x00FFFFFF00FFFFFF (packWindow w) :=
  .or (.place 32 _ (by decide)) (.place 0 _ (by decide))

theorem inMask_packTol (cfg : DecoderCfg) : InMask 0xFFFF (packTol cfg) :=
  .or (.place 8 _ (by decide)) (.place 0 _ (by decide))

theorem inMask_packKfsMsg (len : BitVec 5) (id : BitVec 24) :
    InMask 0x1F00FFFFFF (place 32 len ||| place 0 id) :=
  .or (.place 32 _ (by decide)) (.place 0 _ (by decide))

theorem inMask_packStatus (S : Block) : InMask 0x11F (packStatus S) :=
  .or (.or (.or (.or (.or (.place 0 _ (by decide)) (.place 1 _ (by decide))) (.place 2 _ (by decide)))
    (.place 3 _ (by decide))) (.place 4 _ (by decide))) (.place 8 _ (by decide))

theorem inMask_packTxCtrl (S : Block) : InMask 0x1F2 (packTxCtrl S) :=
  .or (.or (.place 8 _ (by decide)) (.place 4 _ (by decide))) (.place 1 _ (by decide))

theorem inMask_packTxPos (q : Seq) : InMask 0xF30FFF (packTxPos q) :=
  .or (.or (.or (.or (.place 20 _ (by decide)) (.place 17 _ (by decide))) (.place 16 _ (by decide)))
    (.place 8 _ (by decide))) (.place 0 _ (by decide))

theorem inMask_packTxLatch (q : Seq) : InMask 0xFFFF001FFFFFFFFF (packTxLatch q) :=
  .or (.or (.place 48 _ (by decide)) (.place 32 _ (by decide))) (.place 0 _ (by decide))

/-- R31 to R52: the register map and the field tables list the same addresses, and each word has only
the bits of its fields. -/
theorem registerMap_inMask (S : Block) :
    List.Forall₂ (fun r f => r.1 = f.1 ∧ InMask f.2 r.2) (registerMap S) fieldBits := by
  have word {m : Word} {n : Nat} (v : BitVec n) (h : place 0 (BitVec.allOnes n) &&& ~~~ m = 0) :
      InMask m (place 0 v) := .place 0 v h
  simp only [registerMap, fieldBits, List.forall₂_cons, List.forall₂_nil_left_iff, true_and]
  exact ⟨inMask_packStatus S, word S.irqEn (by decide), word S.errCause (by decide),
    word S.coco.cfg.nom (by decide), inMask_packTol _, word S.coco.cfg.rep (by decide),
    word S.coco.cfg.ref (by decide), inMask_packWindow _, inMask_packWindow _, inMask_packWindow _,
    inMask_packWindow _, word S.coco.idx (by decide), inMask_full _, inMask_full _,
    word S.coco.prevCode (by decide), word S.coco.reps (by decide), inMask_full _,
    word S.coco.eff (by decide), inMask_full _, word S.coco.msgCode (by decide),
    word S.kfs.cfg.nom (by decide), inMask_packTol _, word S.kfs.cfg.rep (by decide),
    word S.kfs.cfg.ref (by decide), inMask_packWindow _, inMask_packWindow _, inMask_packWindow _,
    .or (.place 8 _ (by decide)) (word S.kfs.idx (by decide)), inMask_full _, inMask_full _,
    inMask_packKfsMsg _ _, word S.kfs.reps (by decide), inMask_full _, inMask_full _,
    inMask_packKfsMsg _ _, inMask_packTxCtrl S, word S.tx.cocoUnit (by decide),
    word S.tx.kfsUnit (by decide), word S.tx.cocoMsg (by decide), inMask_packKfsMsg _ _,
    inMask_packTxPos _, inMask_full _, inMask_packTxLatch _, trivial⟩

/-- Looking one address up in a list of words and in a list of their masks finds a word in its mask, and
0 where neither lists it. -/
theorem lookup_inMask {l m : List (Addr × Word)}
    (h : List.Forall₂ (fun r f => r.1 = f.1 ∧ InMask f.2 r.2) l m) (a : Addr) :
    InMask ((m.lookup a).getD 0) ((l.lookup a).getD 0) := by
  induction h with
  | nil => exact BitVec.zero_and
  | @cons r f l m hrf _ ih =>
    obtain ⟨haddr, hmask⟩ := hrf
    rw [List.lookup_cons, List.lookup_cons, haddr]
    cases a == f.1
    · exact ih
    · exact hmask

/-- Settles O21: the register map lists the addresses of the field tables, each word in its mask. -/
theorem reservedBitsReadZero : Obligations.ReservedBitsReadZero :=
  fun S a => lookup_inMask (registerMap_inMask S) a

/-! ### Reset values (R30) -/

/-- An address that no entry has looks up nothing, whichever entries are kept. -/
theorem lookup_filter_of_notMem (l : List (Addr × Word)) (p : Addr × Word → Bool) (a : Addr)
    (h : a ∉ l.map Prod.fst) : (l.filter p).lookup a = none := by
  rw [List.lookup_eq_none_iff]
  intro r hr
  have hmem := List.mem_map_of_mem (f := Prod.fst) (List.mem_of_mem_filter hr)
  have hne : a ≠ r.1 := fun haddr => h (by rwa [haddr])
  exact bne_iff_ne.2 hne

/-- Where every address is listed once, an entry that reads 0 reads the same when it is left out. -/
theorem lookup_filter_nonzero (l : List (Addr × Word)) (hl : (l.map Prod.fst).Nodup) (a : Addr) :
    (l.lookup a).getD 0 = ((l.filter (fun r => r.2 != 0)).lookup a).getD 0 := by
  induction l with
  | nil => rfl
  | cons r l ih =>
    obtain ⟨hnew, hrest⟩ := List.nodup_cons.1 hl
    by_cases hzero : r.2 = 0
    · have hdropped : (r :: l).filter (fun r => r.2 != 0) = l.filter (fun r => r.2 != 0) :=
        List.filter_cons_of_neg (by simp [hzero])
      rw [hdropped, List.lookup_cons]
      by_cases haddr : a = r.1
      · rw [haddr, lookup_filter_of_notMem l _ r.1 hnew, beq_self_eq_true]
        exact hzero
      · rw [beq_false_of_ne haddr]
        exact ih hrest
    · have hkept : (r :: l).filter (fun r => r.2 != 0) = r :: l.filter (fun r => r.2 != 0) :=
        List.filter_cons_of_pos (bne_iff_ne.2 hzero)
      rw [hkept, List.lookup_cons, List.lookup_cons]
      cases a == r.1
      · exact ih hrest
      · rfl

/-- R54: the reset values do not depend on what the frame buffers hold. -/
theorem registerMap_reset (cb : Vector Dur Config.cocoBufDepth) (kb : Vector Dur Config.kfsBufDepth) :
    registerMap (Block.reset cb kb) = registerMap Block.powerOn := rfl

/-- R30: the registers that do not read 0 after reset are the rows of its table. -/
theorem registerMap_reset_filter :
    (registerMap Block.powerOn).filter (fun r => r.2 != 0) = resetReadValues := by decide

theorem registerMap_nodup (S : Block) : ((registerMap S).map Prod.fst).Nodup := by
  have haddrs : (registerMap S).map Prod.fst = fieldBits.map Prod.fst := rfl
  rw [haddrs]
  decide

/-- Settles O18: of the registers after reset, those that read other than 0 are R30's rows. -/
theorem resetRegisterValues : Obligations.ResetRegisterValues := by
  intro cb kb a
  rw [pack, lookup_filter_nonzero _ (registerMap_nodup _), registerMap_reset, registerMap_reset_filter]

/-! ### The interrupt line (R215) -/

/-- R31: bits 0 to 4 of STATUS are the sticky bits. -/
theorem packStatus_getLsbD (S : Block) (k : Nat) (hk : k < 5) :
    (packStatus S).getLsbD k = (decide (k = 0) && S.st.cocoMsg || decide (k = 1) && S.st.kfsMsg
      || decide (k = 2) && S.st.cfgErr || decide (k = 3) && S.st.txErr || decide (k = 4) && S.st.txDone) := by
  have hbusy : k ≠ 8 := by omega
  simp [packStatus, placeBit_getLsbD, hbusy]

/-- R32: the bits of IRQ_EN are those of `irq_en`. -/
theorem pack_irqEn_getLsbD (S : Block) (k : Nat) (hk : k < 5) :
    (pack S 0x01).getLsbD k = S.irqEn.getLsbD k := by
  have hpack : pack S 0x01 = place 0 S.irqEn := rfl
  rw [hpack, place_getLsbD, decide_eq_true (by omega : k < 64)]
  rfl

/-- Settles O51: the five terms of R215 are the five bits of STATUS, each with its bit of IRQ_EN. -/
theorem interruptFollowsStatus : Obligations.InterruptFollowsStatus := by
  intro b
  have hstatus : pack b 0x00 = packStatus b := rfl
  rw [hstatus]
  constructor
  · intro hirq
    simp only [Block.irq, Bool.or_eq_true, Bool.and_eq_true] at hirq
    have raised (k : Nat) (hk : k < 5) (hst : (packStatus b).getLsbD k = true)
        (hen : b.irqEn.getLsbD k = true) :
        ∃ k, k < 5 ∧ (packStatus b).getLsbD k = true ∧ (pack b 0x01).getLsbD k = true :=
      ⟨k, hk, hst, (pack_irqEn_getLsbD b k hk).trans hen⟩
    obtain (((⟨hst, hen⟩ | ⟨hst, hen⟩) | ⟨hst, hen⟩) | ⟨hst, hen⟩) | ⟨hst, hen⟩ := hirq
    · exact raised 0 (by decide) ((packStatus_getLsbD b 0 (by decide)).trans (by simp [hst])) hen
    · exact raised 1 (by decide) ((packStatus_getLsbD b 1 (by decide)).trans (by simp [hst])) hen
    · exact raised 2 (by decide) ((packStatus_getLsbD b 2 (by decide)).trans (by simp [hst])) hen
    · exact raised 3 (by decide) ((packStatus_getLsbD b 3 (by decide)).trans (by simp [hst])) hen
    · exact raised 4 (by decide) ((packStatus_getLsbD b 4 (by decide)).trans (by simp [hst])) hen
  · rintro ⟨k, hk, hst, hen⟩
    rw [packStatus_getLsbD b k hk] at hst
    rw [pack_irqEn_getLsbD b k hk] at hen
    interval_cases k <;> simp_all [Block.irq]

/-! ### RESET and WR IRQ_EN -/

/-- Settles O17: RESET writes R56's values, and only the buffers are free. -/
theorem resetGivesTheResetState : Obligations.ResetGivesTheResetState :=
  fun s => ⟨applyOp .reset s, freeCocoBuf s.freeCtr, freeKfsBuf s.freeCtr, exec_eq_applyOp .reset s,
    rfl, rfl, rfl, rfl, rfl, rfl, rfl, rfl, rfl, rfl, rfl, rfl⟩

/-- Settles O24: the operand field D[4:0] is the data modulo 32. -/
theorem irqEnableWrite : Obligations.IrqEnableWrite := by
  intro d s
  have hfield : dIrqEn d = BitVec.ofNat 5 (d.toNat % 32) := by
    rw [dIrqEn, field_eq_ofNat, Nat.pow_zero, Nat.div_one]
    rfl
  rw [← hfield]
  rfl

end Sys2Proof.Machine
end

/-! ## Operations of different slots commute (20_memory.md R66) -/

section
namespace Sys2Proof.Machine

/-! ### The updates of a bus operation -/

/-- An operation of another slot commutes with each update of a register or wire that bus operations are
made of. -/
structure BusIndependent (j : Instr) : Prop where
  /-- the read data (R180) -/
  read (a : Addr) : Function.Commute (applyOp j) (fun s => { s with busRdata := pack s.pre a })
  /-- the clear wires (R182) -/
  clear (m : Sticky) : Function.Commute (applyOp j) (fun s => s.clearSticky m)
  /-- `irq_en` (R183) -/
  irqEn (e : BitVec 5) : Function.Commute (applyOp j) (fun s => s.setIrqEn e)
  /-- a new COCO configuration, computed from the old one (R184 to R187) -/
  cocoCfg (f : DecoderCfg → DecoderCfg) :
    Function.Commute (applyOp j) (fun s => s.setCocoCfg (f s.blk.coco.cfg))
  /-- a new KFS configuration, computed from the old one (R188 to R191) -/
  kfsCfg (f : DecoderCfg → DecoderCfg) :
    Function.Commute (applyOp j) (fun s => s.setKfsCfg (f s.blk.kfs.cfg))
  /-- a new encoder configuration, computed from the old one (R165, R192 to R195) -/
  tx (f : TxCfg → TxCfg) : Function.Commute (applyOp j) (fun s => s.setTx (f s.blk.tx))
  /-- CfgError (R212) -/
  rejected (code : BitVec 8) : Function.Commute (applyOp j) (fun s => s.cfgRejected code)
  /-- TxError (R212) -/
  refused (code : BitVec 8) : Function.Commute (applyOp j) (fun s => s.txRefused code)
  /-- a start, which an idle pre-state alone allows (R165) -/
  start (q : Seq) (s : State) (hidle : s.pre.seq.busy = false) :
    applyOp j (s.setSeq q) = (applyOp j s).setSeq q

/-- What commutes with the commit of a checked write and with its rejection commutes with the write. -/
theorem commute_checkedWrite {g u : State → State} {c : CfgCause} (ok : Bool)
    (hcommit : Function.Commute g u) (hreject : Function.Commute g (fun s => s.cfgRejected c.code)) :
    Function.Commute g (fun s => checkedWrite s ok c (u s)) := by
  cases ok
  · have hrejects : (fun s => checkedWrite s false c (u s)) = fun s => s.cfgRejected c.code :=
      funext fun s => checkedWrite_rejects s (u s) false c rfl
    rwa [hrejects]
  · exact hcommit

/-- R165: PROTO and PIN are stored; a start is refused while busy or for a pin that does not exist. -/
theorem applyOp_wrTxCtrl (d : Word) (s : State) : applyOp (.wrTxCtrl d) s =
    let s1 := s.setTx { s.blk.tx with proto := dProto d, pin := dPin d }
    if dStart d then
      if s.pre.seq.busy then s1.txRefused TxCause.busy.code
      else if (dPin d).toNat = 0 ∨ s.params.nTxPins < (dPin d).toNat then s1.txRefused TxCause.noPin.code
      else s1.setSeq (startSeq s.params s.pre.tx (dProto d) (dPin d))
    else s1 := by
  simp only [applyOp, exec, execWrTxCtrl, raiseTxError_eq]

/-- Which of the outcomes of WR TX_CTRL applies depends on the pre-state and the parameters, which no
operation but RESET writes. -/
theorem BusIndependent.wrTxCtrl {j : Instr} (h : BusIndependent j) (d : Word) :
    Function.Commute (applyOp j) (applyOp (.wrTxCtrl d)) := by
  intro s
  obtain ⟨hpre, hparams, -⟩ := applyOp_frame j s
  have hstored := h.tx (fun t => { t with proto := dProto d, pin := dPin d }) s
  simp only [applyOp_wrTxCtrl, hpre, hparams, ← hstored]
  split_ifs with hstart hbusy hpin
  · exact h.refused _ _
  · exact h.refused _ _
  · exact h.start _ _ (Bool.eq_false_iff.2 hbusy)
  · rfl

/-- Every bus operation is made of those updates. -/
theorem BusIndependent.commute {i j : Instr} (h : BusIndependent j) (hs : i.slot = .bus) :
    Function.Commute (applyOp j) (applyOp i) := by
  cases i <;> simp only [Instr.slot, reduceCtorEq] at hs
  case nop | reserved | wrIgnored => exact fun _ => rfl
  case rd a => exact h.read a
  case wrStatus d => exact h.clear (dClear d)
  case wrIrqEn d => exact h.irqEn (dIrqEn d)
  case wrCocoNominal d =>
    exact commute_checkedWrite (okUnit d) (h.cocoCfg fun c => { c with nom := dUnit d }) (h.rejected _)
  case wrCocoTol d =>
    exact commute_checkedWrite (okTol d) (h.cocoCfg fun c => { c with pos := dPos d, neg := dNeg d })
      (h.rejected _)
  case wrCocoRepeat d =>
    exact commute_checkedWrite (okRep d) (h.cocoCfg fun c => { c with rep := dRep d }) (h.rejected _)
  case wrCocoRefract d =>
    exact commute_checkedWrite (okRef d) (h.cocoCfg fun c => { c with ref := dRef d }) (h.rejected _)
  case wrKfsNominal d =>
    exact commute_checkedWrite (okUnit d) (h.kfsCfg fun c => { c with nom := dUnit d }) (h.rejected _)
  case wrKfsTol d =>
    exact commute_checkedWrite (okTol d) (h.kfsCfg fun c => { c with pos := dPos d, neg := dNeg d })
      (h.rejected _)
  case wrKfsRepeat d =>
    exact commute_checkedWrite (okRep d) (h.kfsCfg fun c => { c with rep := dRep d }) (h.rejected _)
  case wrKfsRefract d =>
    exact commute_checkedWrite (okRef d) (h.kfsCfg fun c => { c with ref := dRef d }) (h.rejected _)
  case wrTxCocoUnit d =>
    exact commute_checkedWrite (okUnit d) (h.tx fun t => { t with cocoUnit := dUnit d }) (h.rejected _)
  case wrTxKfsUnit d =>
    exact commute_checkedWrite (okUnit d) (h.tx fun t => { t with kfsUnit := dUnit d }) (h.rejected _)
  case wrTxCocoMsg d =>
    exact commute_checkedWrite (okCode d) (h.tx fun t => { t with cocoMsg := dCode d }) (h.rejected _)
  case wrTxKfsMsg d =>
    exact commute_checkedWrite (okKfsMsg d) (h.tx fun t => { t with kfsId := dId d, kfsLen := dLen d })
      (h.rejected _)
  case wrTxCtrl d => exact h.wrTxCtrl d

/-! ### The edge and tx slots beside the bus slot -/

/-- R68, R69: an edge reads no configuration but the pre-state's, and its accept wins over a clear. -/
theorem edgeCoco_busIndependent (ts : Word) : BusIndependent (.edgeCoco ts) where
  read a s := by rw [applyOp_edgeCoco, applyOp_edgeCoco]
  clear m s := by
    simp [applyOp_edgeCoco, State.clearSticky, Sticky.merge, mergeBit, Bool.or_assoc]
  irqEn e s := by rw [applyOp_edgeCoco, applyOp_edgeCoco]; rfl
  cocoCfg f s := by
    simp only [applyOp_edgeCoco, State.setCocoCfg, State.setCoco, cocoEdge_withCfg, cocoEdge_cfg]
  kfsCfg f s := by rw [applyOp_edgeCoco, applyOp_edgeCoco]; rfl
  tx f s := by rw [applyOp_edgeCoco, applyOp_edgeCoco]; rfl
  rejected code s := by rw [applyOp_edgeCoco, applyOp_edgeCoco]; rfl
  refused code s := by rw [applyOp_edgeCoco, applyOp_edgeCoco]; rfl
  start q s _ := by rw [applyOp_edgeCoco, applyOp_edgeCoco]; rfl

theorem edgeKfs_busIndependent (ts : Word) : BusIndependent (.edgeKfs ts) where
  read a s := by rw [applyOp_edgeKfs, applyOp_edgeKfs]
  clear m s := by
    simp [applyOp_edgeKfs, State.clearSticky, Sticky.merge, mergeBit, Bool.or_assoc]
  irqEn e s := by rw [applyOp_edgeKfs, applyOp_edgeKfs]; rfl
  cocoCfg f s := by rw [applyOp_edgeKfs, applyOp_edgeKfs]; rfl
  kfsCfg f s := by
    simp only [applyOp_edgeKfs, State.setKfsCfg, State.setKfs, kfsEdge_withCfg, kfsEdge_cfg]
  tx f s := by rw [applyOp_edgeKfs, applyOp_edgeKfs]; rfl
  rejected code s := by rw [applyOp_edgeKfs, applyOp_edgeKfs]; rfl
  refused code s := by rw [applyOp_edgeKfs, applyOp_edgeKfs]; rfl
  start q s _ := by rw [applyOp_edgeKfs, applyOp_edgeKfs]; rfl

/-- TX.TICK of a sequencer in any state: the tick while busy, nothing while idle (R166). -/
def tickOrIdle (s : State) : Seq × Bool :=
  if s.pre.seq.busy then seqTick s.params s.pre.seq s.blk.seq else (s.blk.seq, false)

theorem applyOp_txTick_eq (s : State) : applyOp .txTick s =
    { s with
      set := { s.set with txDone := s.set.txDone || (tickOrIdle s).2 }
      blk := { s.blk with
        seq := (tickOrIdle s).1
        st := { s.blk.st with txDone := s.blk.st.txDone || (tickOrIdle s).2 } } } := by
  cases hbusy : s.pre.seq.busy
  · simp [applyOp_txTick_idle s hbusy, tickOrIdle, hbusy]
  · simp [applyOp_txTick s hbusy, tickOrIdle, hbusy]

/-- R69, R165: the tick's completion wins over a clear, and no start meets the tick of a busy sequencer. -/
theorem txTick_busIndependent : BusIndependent .txTick where
  read a s := by rw [applyOp_txTick_eq, applyOp_txTick_eq]; rfl
  clear m s := by
    simp [applyOp_txTick_eq, tickOrIdle, State.clearSticky, Sticky.merge, mergeBit, Bool.or_assoc]
  irqEn e s := by rw [applyOp_txTick_eq, applyOp_txTick_eq]; rfl
  cocoCfg f s := by rw [applyOp_txTick_eq, applyOp_txTick_eq]; rfl
  kfsCfg f s := by rw [applyOp_txTick_eq, applyOp_txTick_eq]; rfl
  tx f s := by rw [applyOp_txTick_eq, applyOp_txTick_eq]; rfl
  rejected code s := by rw [applyOp_txTick_eq, applyOp_txTick_eq]; rfl
  refused code s := by rw [applyOp_txTick_eq, applyOp_txTick_eq]; rfl
  start q s hidle := by rw [applyOp_txTick_idle s hidle, applyOp_txTick_idle (s.setSeq q) hidle]

/-! ### The edge and tx slots beside one another -/

theorem edgeCoco_commute_edgeKfs (ts us : Word) :
    Function.Commute (applyOp (.edgeCoco ts)) (applyOp (.edgeKfs us)) := by
  intro s
  simp only [applyOp_edgeCoco, applyOp_edgeKfs]

theorem edgeCoco_commute_txTick (ts : Word) :
    Function.Commute (applyOp (.edgeCoco ts)) (applyOp .txTick) := by
  intro s
  simp only [applyOp_edgeCoco, applyOp_txTick_eq, tickOrIdle]

theorem edgeKfs_commute_txTick (ts : Word) :
    Function.Commute (applyOp (.edgeKfs ts)) (applyOp .txTick) := by
  intro s
  simp only [applyOp_edgeKfs, applyOp_txTick_eq, tickOrIdle]

/-! ### Any two slots -/

theorem bus_commute {i j : Instr} (hi : i.slot = .bus) (hj : j.slot ≠ .bus) (hr : j.slot ≠ .reset) :
    Function.Commute (applyOp i) (applyOp j) := by
  obtain rfl | ⟨ts, rfl⟩ | ⟨ts, rfl⟩ | rfl | hbus := slot_cases j
  · exact absurd rfl hr
  · exact ((edgeCoco_busIndependent ts).commute hi).symm
  · exact ((edgeKfs_busIndependent ts).commute hi).symm
  · exact (txTick_busIndependent.commute hi).symm
  · exact absurd hbus hj

theorem edgeCoco_commute (ts : Word) {j : Instr} (hj : j.slot ≠ .coco) (hr : j.slot ≠ .reset) :
    Function.Commute (applyOp (.edgeCoco ts)) (applyOp j) := by
  obtain rfl | ⟨us, rfl⟩ | ⟨us, rfl⟩ | rfl | hbus := slot_cases j
  · exact absurd rfl hr
  · exact absurd rfl hj
  · exact edgeCoco_commute_edgeKfs ts us
  · exact edgeCoco_commute_txTick ts
  · exact (edgeCoco_busIndependent ts).commute hbus

theorem edgeKfs_commute (ts : Word) {j : Instr} (hj : j.slot ≠ .kfs) (hr : j.slot ≠ .reset) :
    Function.Commute (applyOp (.edgeKfs ts)) (applyOp j) := by
  obtain rfl | ⟨us, rfl⟩ | ⟨us, rfl⟩ | rfl | hbus := slot_cases j
  · exact absurd rfl hr
  · exact (edgeCoco_commute_edgeKfs us ts).symm
  · exact absurd rfl hj
  · exact edgeKfs_commute_txTick ts
  · exact (edgeKfs_busIndependent ts).commute hbus

theorem txTick_commute {j : Instr} (hj : j.slot ≠ .tx) (hr : j.slot ≠ .reset) :
    Function.Commute (applyOp .txTick) (applyOp j) := by
  obtain rfl | ⟨us, rfl⟩ | ⟨us, rfl⟩ | rfl | hbus := slot_cases j
  · exact absurd rfl hr
  · exact (edgeCoco_commute_txTick us).symm
  · exact (edgeKfs_commute_txTick us).symm
  · exact absurd rfl hj
  · exact txTick_busIndependent.commute hbus

/-- Settles O6: each slot but RESET's commutes with the other three. -/
theorem slotsCommute : Obligations.SlotsCommute := by
  intro i j s hij hi hj
  have hcommute : Function.Commute (applyOp i) (applyOp j) := by
    obtain rfl | ⟨ts, rfl⟩ | ⟨ts, rfl⟩ | rfl | hbus := slot_cases i
    · exact absurd rfl hi
    · exact edgeCoco_commute ts hij.symm hj
    · exact edgeKfs_commute ts hij.symm hj
    · exact txTick_commute hij.symm hj
    · exact bus_commute hbus (hbus ▸ hij.symm) hj
  rw [runOps_eq, runOps_eq]
  exact congrArg Host.Outcome.next (hcommute s).symm

end Sys2Proof.Machine
end

/-! ## Every cycle completes (30_encoding.md R87), and reads change nothing else (45_host_interface.md R180) -/

section
namespace Sys2Proof.Machine

/-- No operation of a cycle writes the pre-state or the schedule of inputs. -/
theorem applyOps_pre_inputs (is : List Instr) (s : State) :
    (applyOps is s).pre = s.pre ∧ (applyOps is s).inputs = s.inputs := by
  induction is generalizing s with
  | nil => exact ⟨rfl, rfl⟩
  | cons i is ih =>
    obtain ⟨hpre, -, hinputs, -⟩ := applyOp_frame i s
    obtain ⟨hpre', hinputs'⟩ := ih (applyOp i s)
    exact ⟨hpre'.trans hpre, hinputs'.trans hinputs⟩

/-- Settles O5: every operation answers a next state, so the list of a cycle's operations does; what
`openCycle` gives the fields in question passes through them. -/
theorem everyCycleCompletes : Obligations.EveryCycleCompletes := by
  intro s
  obtain ⟨hpre, hinputs⟩ :=
    applyOps_pre_inputs (decodeCycle s.blk.seq.busy s.nextInput) s.openCycle
  exact ⟨_, cycle_eq s.nextInput s, hpre, hinputs, applyOps_params _ s.openCycle⟩

/-- Settles O19: RD's meaning is that update of `bus_rdata`, with no case on the address. -/
theorem readDrivesTheRegister : Obligations.ReadDrivesTheRegister := fun _ _ => rfl

end Sys2Proof.Machine
end

/-! ## What a cycle leaves in a decoder (20_memory.md R68, R76) -/

section
namespace Sys2Proof.Machine

theorem afterSlots_coco (c : CycleIn) (s : State) : (s.afterSlots c).blk.coco = (cocoSlot c s).1 := rfl
theorem afterSlots_kfs (c : CycleIn) (s : State) : (s.afterSlots c).blk.kfs = (kfsSlot c s).1 := rfl

theorem cocoSlot_congr {c e : CycleIn} {s t : State} (hs : s.blk.coco = t.blk.coco)
    (hvalid : c.cocoValid = e.cocoValid) (hts : c.t = e.t) : cocoSlot c s = cocoSlot e t := by
  simp only [cocoSlot, hs, hvalid, hts]

theorem kfsSlot_congr {c e : CycleIn} {s t : State} (hs : s.blk.kfs = t.blk.kfs)
    (hvalid : c.kfsValid = e.kfsValid) (hts : c.u = e.u) : kfsSlot c s = kfsSlot e t := by
  simp only [kfsSlot, hs, hvalid, hts]

/-- R81: OP = 00 is a NOP. -/
theorem decodeBus_of_op_zero (c : CycleIn) (h : c.op = 0) : decodeBus c = .nop c.addr := if_pos h

/-- A cycle with R = 0 and no bus operation leaves what its edge and tx slots give. -/
theorem cycle_of_no_bus (c : CycleIn) (s : State) (hrst : c.rst = false) (hop : c.op = 0) :
    cycle c s = .next (s.afterSlots c) := by
  rw [cycle_of_running c s hrst, decodeBus_of_op_zero c hop, applyOp_nop]

/-- Settles O9: the edge slots of the two cycles are the same, and the bus operation of the first changes
at most the configurations they left. -/
theorem edgesSeeTheConfigurationBeforeAWrite : Obligations.EdgesSeeTheConfigurationBeforeAWrite := by
  intro s t u c e hc he hop hcoco hkfs ht hu hct heu
  rw [cycle_of_running c s hc] at hct
  rw [cycle_of_no_bus e s he hop] at heu
  cases hct
  cases heu
  have hbus := (decodeBus_wellFormed c).2
  obtain ⟨f, hf⟩ := bus_coco (decodeBus c) hbus
  obtain ⟨g, hg⟩ := bus_kfs (decodeBus c) hbus
  refine ⟨?_, ?_, cocoSlot_cfg e s, kfsSlot_cfg e s⟩
  · rw [hf, afterSlots_coco, afterSlots_coco, cocoSlot_congr rfl hcoco ht]
  · rw [hg, afterSlots_kfs, afterSlots_kfs, kfsSlot_congr rfl hkfs hu]

/-- Settles O12: RESET leaves the same decoders everywhere; with R = 0 an edge slot reads its own decoder
and port, and the bus operation computes the configuration from the one it finds. -/
theorem decodersAreIndependent : Obligations.DecodersAreIndependent := by
  intro s t s' t' c e hrst hdecode hctr hc he
  cases hr : c.rst
  · rw [cycle_of_running c s hr] at hc
    rw [cycle_of_running e t (hrst ▸ hr), ← hdecode] at he
    cases hc
    cases he
    have hbus := (decodeBus_wellFormed c).2
    obtain ⟨f, hf⟩ := bus_coco (decodeBus c) hbus
    obtain ⟨g, hg⟩ := bus_kfs (decodeBus c) hbus
    refine ⟨fun hs hvalid hts => ?_, fun hs hvalid hts => ?_⟩
    · rw [hf, hf, afterSlots_coco, afterSlots_coco, cocoSlot_congr hs hvalid hts]
    · rw [hg, hg, afterSlots_kfs, afterSlots_kfs, kfsSlot_congr hs hvalid hts]
  · rw [cycle_of_reset c s hr] at hc
    rw [cycle_of_reset e t (hrst ▸ hr)] at he
    cases hc
    cases he
    rw [applyOp_reset, applyOp_reset, State.openCycle_freeCtr, State.openCycle_freeCtr, hctr]
    exact ⟨fun _ _ _ => rfl, fun _ _ _ => rfl⟩

end Sys2Proof.Machine
end

/-! ## What an edge leaves alone (20_memory.md R66, R75) -/

section
namespace Sys2Proof.Machine

/-- R111: a COCO edge leaves every buffer entry but the one at its store index. -/
theorem cocoEdge_buf_other (S S' : CocoState) (ts : Word) (i : Nat)
    (hi : i ≠ if isS S.cfg (duration ts S.lastTs) then 0 else S.idx.toNat) :
    bufRead (cocoEdge S S' ts).1.buf i = bufRead S'.buf i := by
  obtain ⟨-, -, -, hbuf, -⟩ := cocoEdge_frame S S' ts
  rw [hbuf, cocoStoreIdx_toNat, bufRead_bufWrite_other _ _ _ _ hi]

/-- R130, R132, R134: a KFS edge leaves every buffer entry but the one it stores at, and the first edge
leaves them all. -/
theorem kfsEdge_buf_other (S S' : KfsState) (ts : Word) (i : Nat)
    (hi : S.seen = true →
      i ≠ if isKS S.cfg (duration ts S.lastTs) ∨ S.idx = 67 then 0 else S.idx.toNat) :
    bufRead (kfsEdge S S' ts).1.buf i = bufRead S'.buf i := by
  obtain ⟨-, -, hfirst, hlater, -⟩ := kfsEdge_frame S S' ts
  cases hseen : S.seen
  · rw [hfirst hseen]
  · obtain ⟨-, -, hbuf, -⟩ := hlater hseen
    have hwrap : S.idx.toNat = 67 ↔ S.idx = 67 := BitVec.toNat_inj (y := 67)
    rw [hbuf, bufRead_bufWrite_other]
    rw [← ite_or]
    simpa only [hwrap] using hi hseen

/-- Settles O42: an edge's result is the state with its decoder and its message bit and wire replaced. -/
theorem edgesWriteOnlyTheirDecoder : Obligations.EdgesWriteOnlyTheirDecoder := by
  intro ts s
  refine ⟨⟨_, exec_eq_applyOp (.edgeCoco ts) s, ?_⟩, ⟨_, exec_eq_applyOp (.edgeKfs ts) s, ?_⟩⟩
  · obtain ⟨hcfg, hlast, -⟩ := cocoEdge_frame s.pre.coco s.blk.coco ts
    rw [applyOp_edgeCoco]
    exact ⟨rfl, hcfg, hlast, cocoEdge_buf_other s.pre.coco s.blk.coco ts⟩
  · obtain ⟨hcfg, hlast, -⟩ := kfsEdge_frame s.pre.kfs s.blk.kfs ts
    rw [applyOp_edgeKfs]
    exact ⟨rfl, hcfg, hlast, kfsEdge_buf_other s.pre.kfs s.blk.kfs ts⟩

end Sys2Proof.Machine
end

/-! ## Decoding and encoding (30_encoding.md R80, R85, R86, R91, R94) -/

section
namespace Sys2Proof

/-! ### The encoding of a list of operations -/

theorem CycleIn.both_idle (c : CycleIn) : c.both CycleIn.idle = c := by
  simp [CycleIn.both, CycleIn.idle]

theorem encodeAll_singleton (i : Instr) : encodeAll [i] = (encode i).getD CycleIn.idle :=
  CycleIn.both_idle _

/-- R94: two edges in one header. -/
theorem encodeAll_edges (t u : Word) :
    encodeAll [.edgeCoco t, .edgeKfs u] = ⟨0x0C00, t, u, 0⟩ := by
  rw [encodeAll, encodeAll_singleton, encode_edgeCoco, encode_edgeKfs]
  simp [CycleIn.both, CycleIn.idle]

/-- R85: only the internal operation is requested by no header. -/
theorem encode_eq_none_iff (i : Instr) : encode i = none ↔ i = .txTick := by
  cases i <;> simp [encode]

/-! ### Decode of encode -/

/-- R85: a header read as one row is the first of the operations it selects. -/
theorem row_eq_of_decodeHeader {c : CycleIn} {i : Instr} {is : List Instr}
    (h : decodeHeader c = i :: is) : c.row = i := by
  have hhead : (decodeHeader c).head? = some c.row := by
    unfold decodeHeader CycleIn.row
    cases c.rst
    case true => rfl
    case false => cases c.cocoValid <;> cases c.kfsValid <;> rfl
  rw [h] at hhead
  exact (Option.some.inj hhead).symm

/-- R91: the encoding of one operation, read as one row, is that operation. -/
theorem row_of_encode {i : Instr} {c : CycleIn} (hw : i.WellFormed = true) (he : encode i = some c) :
    c.row = i := by
  obtain h | h := decodeHeader_of_encode i c hw he <;> exact row_eq_of_decodeHeader h

/-- R86: any choice of edges beside a bus operation is decoded from their common header: the flags and
the bus part of the header do not overlap, so each is read back as it was written. -/
theorem decodeHeader_encodeAll_slots (cv kv : Bool) (t u : Word) (i : Instr)
    (hw : i.WellFormed = true) (hs : i.slot = .bus) :
    let ops := (if cv then [.edgeCoco t] else []) ++ (if kv then [.edgeKfs u] else []) ++ [i]
    decodeHeader (encodeAll ops) = ops := by
  intro ops
  obtain ⟨op, a, d, hi⟩ := encode_bus i hs
  have henc := encodeAll_slots cv kv t u i op a d hi
  obtain ⟨hrst, hkfs, hcoco, hop, haddr⟩ := header_join op a cv kv
  have ht : (encodeAll ops).t = if cv then t else 0 := congrArg CycleIn.t henc
  have hu : (encodeAll ops).u = if kv then u else 0 := congrArg CycleIn.u henc
  have hd : (encodeAll ops).d = d := congrArg CycleIn.d henc
  have hh := congrArg CycleIn.h henc
  dsimp only at hh
  rw [← hh] at hrst hkfs hcoco hop haddr
  rw [decodeHeader_of_not_rst _ hrst, decodeBus_of_encode i hw op a d hi hs _ hop haddr hd, headerEdges,
    show (encodeAll ops).cocoValid = cv from hcoco, show (encodeAll ops).kfsValid = kv from hkfs, ht, hu]
  cases cv <;> cases kv <;> rfl

/-- An edge that may be absent, as the conditional entry that the decoder writes. -/
theorem toList_map_eq_ite (f : Word → Instr) (a : Option Word) :
    (a.map f).toList = if a.isSome then [f (a.getD 0)] else [] := by
  cases a <;> rfl

/-- Settles O1: one operation is the row of its own header, and a combination of slots is decoded slot by
slot. -/
theorem decodeEncodeAgree : Obligations.DecodeEncodeAgree := by
  refine ⟨fun _ _ => row_of_encode, encode_eq_none_iff, fun a b i hw hs => ?_, ?_⟩
  · rw [toList_map_eq_ite, toList_map_eq_ite]
    exact decodeHeader_encodeAll_slots _ _ _ _ i hw hs
  · rw [encodeAll_singleton]
    exact decodeHeader_of_rst _ rfl

/-! ### Encode of decode -/

/-- With R = 0 the encoding of the decoded operations is the header with the operands that it reads. -/
theorem encodeAll_decodeHeader_of_not_rst (c : CycleIn) (h : c.rst = false) :
    encodeAll (decodeHeader c) = c.normal := by
  rw [decodeHeader_of_not_rst c h, headerEdges, encodeAll_slots _ _ _ _ _ _ _ _ (encode_decodeBus c),
    CycleIn.normal, h, if_neg Bool.false_ne_true]
  exact congrArg (CycleIn.mk · _ _ _) (header_split c.h h)

theorem encodeAll_decodeHeader_of_rst (c : CycleIn) (h : c.rst = true) :
    encodeAll (decodeHeader c) = c.normal := by
  rw [decodeHeader_of_rst c h, encodeAll_singleton, CycleIn.normal, if_pos h]
  rfl

theorem mem_headerEdges {c : CycleIn} {i : Instr} (h : i ∈ headerEdges c) :
    i = .edgeCoco c.t ∨ i = .edgeKfs c.u := by
  obtain h | h := List.mem_append.1 h
  · exact .inl (by simpa using (List.mem_ite_nil_right.1 h).2)
  · exact .inr (by simpa using (List.mem_ite_nil_right.1 h).2)

/-- R87: what a header selects are well-formed operations, each with a header of its own. -/
theorem decodeHeader_wellFormed (c : CycleIn) (i : Instr) (h : i ∈ decodeHeader c) :
    i.WellFormed = true ∧ i.hasEncoding = true := by
  cases hr : c.rst
  case true =>
    rw [decodeHeader_of_rst c hr, List.mem_singleton] at h
    subst h
    exact ⟨rfl, rfl⟩
  case false =>
    rw [decodeHeader_of_not_rst c hr, List.mem_append, List.mem_singleton] at h
    obtain hedge | rfl := h
    · obtain rfl | rfl := mem_headerEdges hedge <;> exact ⟨rfl, rfl⟩
    · obtain ⟨hw, hs⟩ := decodeBus_wellFormed c
      exact ⟨hw, by rw [Instr.hasEncoding, hs]; rfl⟩

/-- Settles O2: with R = 1 both sides are RESET's header; with R = 0 the header is put together again from
its flags and its bus part. -/
theorem encodeDecodeAgree : Obligations.EncodeDecodeAgree := by
  refine fun c => ⟨?_, decodeHeader_wellFormed c⟩
  cases hr : c.rst
  case true => exact encodeAll_decodeHeader_of_rst c hr
  case false => exact encodeAll_decodeHeader_of_not_rst c hr

/-! ### R94's table -/

/-- The row of two edges: with OP = 00 the bus slot is a NOP of address 0. -/
theorem decodeHeader_edges (t u : Word) :
    decodeHeader ⟨0x0C00, t, u, 0⟩ = [.edgeCoco t, .edgeKfs u, .nop 0] := by
  have henc : encodeAll [.edgeCoco t, .edgeKfs u, .nop 0] = ⟨0x0C00, t, u, 0⟩ :=
    encodeAll_slots true true t u (.nop 0) 0 0 0 rfl
  rw [← henc]
  exact decodeHeader_encodeAll_slots true true t u (.nop 0) rfl rfl

/-- A header of its own, as a 16-bit word, is read with operands of zeros (assumption log 8). -/
theorem decodeTableWord_header (h : Header) :
    decodeTableWord 16 h.toNat = some (CycleIn.row ⟨h, 0, 0, 0⟩) := by
  have hlt := h.isLt
  have hmod : h.toNat % 2 ^ 16 = h.toNat := Nat.mod_eq_of_lt (by omega)
  have hwide : h.toNat / 2 ^ 13 = 0 := Nat.div_eq_of_lt hlt
  have ht : h.toNat / 2 ^ 16 = 0 := Nat.div_eq_of_lt (by omega)
  have hu : h.toNat / 2 ^ 80 = 0 := Nat.div_eq_of_lt (by omega)
  have hd : h.toNat / 2 ^ 144 = 0 := Nat.div_eq_of_lt (by omega)
  have hlong : h.toNat / 2 ^ 208 = 0 := Nat.div_eq_of_lt (by omega)
  have hof : CycleIn.ofNat h.toNat = ⟨h, 0, 0, 0⟩ := by
    rw [CycleIn.ofNat, ht, hu, hd, BitVec.ofNat_toNat, BitVec.setWidth_eq]
    rfl
  have hword : decodeWord h.toNat = .ok ⟨h, 0, 0, 0⟩ := by
    rw [decodeWord, hwide, hlong, hof]
    rfl
  rw [decodeTableWord, hmod, hword]

/-- The header of an operation whose operands are zeros decodes, as a 16-bit word, to that operation. -/
theorem decodeTableWord_of_encode {i : Instr} (h : Header) (hw : i.WellFormed = true)
    (he : encode i = some ⟨h, 0, 0, 0⟩) : decodeTableWord 16 h.toNat = some i := by
  rw [decodeTableWord_header, row_of_encode hw he]

/-- Settles O3: each row encodes by its line of `encode`, and decodes by the lemma of its slot. -/
theorem headersOfCommonLines : Obligations.HeadersOfCommonLines := by
  refine ⟨fun t v => ?_, fun t v => ?_, ?_⟩
  · exact ⟨encodeAll_singleton _, encodeAll_singleton _, encodeAll_singleton _, encodeAll_singleton _,
      encodeAll_edges t t, encodeAll_singleton _, encodeAll_singleton _, encodeAll_singleton _,
      encodeAll_singleton _, encodeAll_singleton _, encodeAll_singleton _⟩
  · exact ⟨decodeHeader_of_rst _ rfl, decodeHeader_of_encode_bus _ _ rfl rfl rfl, decodeHeader_edgeCoco t,
      decodeHeader_edgeKfs t, decodeHeader_edges t t, decodeHeader_of_encode_bus _ _ rfl rfl rfl,
      decodeHeader_of_encode_bus _ _ rfl rfl rfl, decodeHeader_of_encode_bus _ _ rfl rfl rfl,
      decodeHeader_of_encode_bus _ _ rfl rfl rfl, decodeHeader_of_encode_bus _ _ rfl rfl rfl,
      decodeHeader_of_encode_bus _ _ rfl rfl rfl⟩
  · exact ⟨decodeTableWord_of_encode 0x1000 rfl rfl, decodeTableWord_of_encode 0x0000 rfl rfl,
      decodeTableWord_of_encode 0x0400 rfl rfl, decodeTableWord_of_encode 0x0800 rfl rfl,
      decodeTableWord_of_encode 0x0200 rfl rfl, decodeTableWord_of_encode 0x0100 rfl rfl,
      decodeTableWord_of_encode 0x0111 rfl rfl, decodeTableWord_of_encode 0x0150 rfl rfl,
      decodeTableWord_of_encode 0x0154 rfl rfl, decodeTableWord_of_encode 0x0220 rfl rfl⟩

end Sys2Proof
end

/-! ## Cycles that reset, and operations that do nothing (30_encoding.md R86, R87; 70_reset_and_hazards.md) -/

section
namespace Sys2Proof.Machine

/-- R242: every output line is low in the reset state. -/
theorem Block.reset_txOut (cb : Vector Dur Config.cocoBufDepth) (kb : Vector Dur Config.kfsBufDepth)
    (p : Nat) : (Block.reset cb kb).txOut p = false := rfl

theorem Block.reset_irq (cb : Vector Dur Config.cocoBufDepth) (kb : Vector Dur Config.kfsBufDepth) :
    (Block.reset cb kb).irq = false := rfl

/-- Settles O7: a cycle with R = 1 is RESET alone, which reads none of the cycle's inputs. -/
theorem resetCycleIgnoresTheRest : Obligations.ResetCycleIgnoresTheRest := by
  intro s c e hc he
  have hcycle := cycle_of_reset c s hc
  refine ⟨hcycle.trans (cycle_of_reset e s he).symm, applyOp .reset s.openCycle, freeCocoBuf s.freeCtr,
    freeKfsBuf s.freeCtr, hcycle, ?_⟩
  rw [applyOp_reset]
  exact ⟨rfl, rfl, Block.reset_txOut _ _, Block.reset_irq _ _, s.openCycle_params⟩

/-- Settles O22: the meanings of the three operations are the identity on the state. -/
theorem ignoredOperationsChangeNothing : Obligations.IgnoredOperationsChangeNothing := by
  intro a d s
  refine ⟨?_, ?_, ?_⟩
  · rw [exec_eq_applyOp, applyOp_nop]
  · rw [exec_eq_applyOp, applyOp_reserved]
  · rw [exec_eq_applyOp, applyOp_wrIgnored]

end Sys2Proof.Machine
end

/-! ## The COCO decoder (41_coco_decoder.md) -/

section
namespace Sys2Proof.Machine

/-! ### The walk and its groups (R116 to R118) -/

/-- R116: the '0' pattern, which is tested first. -/
theorem cocoGroup_eq_some_false_iff (cfg : DecoderCfg) (B : Vector Dur Config.cocoBufDepth) (k : Nat) :
    cocoGroup cfg B k = some false ↔
      isU cfg (bufRead B (4 * k + 1)) ∧ isU cfg (bufRead B (4 * k + 2))
        ∧ isU cfg (bufRead B (4 * k + 3)) ∧ isL cfg (bufRead B (4 * k + 4)) := by
  simp only [cocoGroup, Nat.add_comm _ (cocoPulsesPerBit * k)]
  split
  · simp_all
  · split <;> simp_all

/-- R116: the '1' pattern, of a group that is not a '0'. -/
theorem cocoGroup_eq_some_true_iff (cfg : DecoderCfg) (B : Vector Dur Config.cocoBufDepth) (k : Nat) :
    cocoGroup cfg B k = some true ↔ cocoGroup cfg B k ≠ some false ∧
      isU cfg (bufRead B (4 * k + 1)) ∧ isL cfg (bufRead B (4 * k + 2))
        ∧ isU cfg (bufRead B (4 * k + 3)) ∧ isU cfg (bufRead B (4 * k + 4)) := by
  simp only [cocoGroup, Nat.add_comm _ (cocoPulsesPerBit * k)]
  split
  · simp
  · split <;> simp_all

theorem cocoWalkFrom_succ_of_none {cfg : DecoderCfg} {B : Vector Dur Config.cocoBufDepth} {k : Nat}
    (h : cocoGroup cfg B k = none) (n : Nat) (acc : BitVec 32) :
    cocoWalkFrom cfg B (n + 1) k acc = none := by
  simp only [cocoWalkFrom, h]

theorem cocoWalkFrom_succ_of_some {cfg : DecoderCfg} {B : Vector Dur Config.cocoBufDepth} {k : Nat} {b : Bool}
    (h : cocoGroup cfg B k = some b) (n : Nat) (acc : BitVec 32) :
    cocoWalkFrom cfg B (n + 1) k acc = cocoWalkFrom cfg B n (k + 1) (shiftIn acc b) := by
  simp only [cocoWalkFrom, h]

/-- R117: a code holds an accumulated code with one more bit from bit `n` on exactly when it holds that bit at
bit `n` and the accumulated code above it. -/
theorem bits_eq_shiftIn_iff (code acc : BitVec 32) (b : Bool) (n : Nat) (hn : n < 32) :
    (∀ i, i + n < 32 → code.getLsbD (i + n) = (shiftIn acc b).getLsbD i) ↔
      b = code.getLsbD n ∧ ∀ i, i + (n + 1) < 32 → code.getLsbD (i + (n + 1)) = acc.getLsbD i := by
  constructor
  · intro h
    have hlow := h 0 (by omega)
    rw [shiftIn_getLsbD _ _ _ (by omega), if_pos rfl, Nat.zero_add] at hlow
    refine ⟨hlow.symm, fun i hi => ?_⟩
    have hbit := h (i + 1) (by omega)
    rwa [shiftIn_getLsbD _ _ _ (by omega), if_neg (by omega), Nat.add_sub_cancel,
      Nat.add_assoc, Nat.add_comm 1] at hbit
  · rintro ⟨rfl, h⟩ i hi
    rw [shiftIn_getLsbD _ _ _ (by omega)]
    cases i with
    | zero => simp
    | succ i => simpa [Nat.add_assoc, Nat.add_comm 1] using h i (by omega)

/-- R117: the walk over `n` groups from `k` on puts their bits below bit `n`, the first at the top, and
moves what was accumulated before it up by `n` places. -/
theorem cocoWalkFrom_eq_some_iff (cfg : DecoderCfg) (B : Vector Dur Config.cocoBufDepth)
    (n k : Nat) (acc code : BitVec 32) (hn : n ≤ 32) :
    cocoWalkFrom cfg B n k acc = some code ↔
      (∀ j, j < n → cocoGroup cfg B (k + j) = some (code.getLsbD (n - 1 - j)))
        ∧ ∀ i, i + n < 32 → code.getLsbD (i + n) = acc.getLsbD i := by
  induction n generalizing k acc with
  | zero =>
    have hbits : acc = code ↔ ∀ i, i < 32 → code.getLsbD i = acc.getLsbD i :=
      ⟨fun h _ _ => by rw [h], fun h => BitVec.eq_of_getLsbD_eq fun i hi => (h i hi).symm⟩
    simp [cocoWalkFrom, hbits]
  | succ n ih =>
    have hgroups : (∀ j, j < n + 1 → cocoGroup cfg B (k + j) = some (code.getLsbD (n + 1 - 1 - j)))
        ↔ cocoGroup cfg B k = some (code.getLsbD n)
          ∧ ∀ j, j < n → cocoGroup cfg B (k + 1 + j) = some (code.getLsbD (n - 1 - j)) := by
      rw [Nat.forall_lt_succ_left]
      simp only [Nat.add_sub_cancel, Nat.sub_zero, Nat.add_zero, Nat.add_right_comm k 1, Nat.add_assoc,
        Nat.sub_sub, Nat.add_comm 1]
    cases hg : cocoGroup cfg B k with
    | none => simp only [cocoWalkFrom_succ_of_none hg, hgroups, hg, reduceCtorEq, false_and]
    | some b =>
      rw [cocoWalkFrom_succ_of_some hg, ih _ _ (by omega), hgroups,
        bits_eq_shiftIn_iff _ _ _ _ (by omega), hg, Option.some_inj]
      exact and_left_comm.trans and_assoc.symm

/-- R118: the walk is rejected exactly where one of its groups is. -/
theorem cocoWalkFrom_eq_none_iff (cfg : DecoderCfg) (B : Vector Dur Config.cocoBufDepth)
    (n k : Nat) (acc : BitVec 32) :
    cocoWalkFrom cfg B n k acc = none ↔ ∃ j, j < n ∧ cocoGroup cfg B (k + j) = none := by
  induction n generalizing k acc with
  | zero => simp [cocoWalkFrom]
  | succ n ih =>
    rw [Nat.exists_lt_succ_left]
    cases hg : cocoGroup cfg B k with
    | none => simp [cocoWalkFrom_succ_of_none hg]
    | some b =>
      simp [cocoWalkFrom_succ_of_some hg, ih, Nat.add_assoc, Nat.add_comm 1]

theorem cocoWalk_eq_some_iff (cfg : DecoderCfg) (B : Vector Dur Config.cocoBufDepth) (code : BitVec 32) :
    cocoWalk cfg B = some code ↔ ∀ k, k < 32 → cocoGroup cfg B k = some (code.getLsbD (31 - k)) := by
  rw [cocoWalk, cocoWalkFrom_eq_some_iff _ _ _ _ _ _ (le_refl 32)]
  simp

theorem cocoWalk_eq_none_iff (cfg : DecoderCfg) (B : Vector Dur Config.cocoBufDepth) :
    cocoWalk cfg B = none ↔ ∃ k, k < 32 ∧ cocoGroup cfg B k = none := by
  simp [cocoWalk, cocoWalkFrom_eq_none_iff]

/-- Settles O41: the walk from group 0 with nothing accumulated, and the two patterns of a group. -/
theorem cocoWalkReadsGroups : Obligations.CocoWalkReadsGroups :=
  fun cfg B code => ⟨cocoWalk_eq_some_iff cfg B code, cocoWalk_eq_none_iff cfg B,
    cocoGroup_eq_some_false_iff cfg B, cocoGroup_eq_some_true_iff cfg B⟩

/-! ### A frame of nominal durations (R173) -/

/-- Four nominal units are longer than any unit window: a positive tolerance at most doubles the nominal. -/
theorem isU_four_units (cfg : DecoderCfg) (d : Dur) (h : cfg.Legal) (hd : d.toNat = 4 * cfg.nom.toNat) :
    isU cfg d = false := by
  obtain ⟨hnom, -, hpos, -, -⟩ := h
  have hmax : cfg.nom.toNat * 1 * (100 + cfg.pos.toNat) ≤ cfg.nom.toNat * 200 := by
    rw [Nat.mul_one]; exact Nat.mul_le_mul_left _ (by omega)
  have hwin : (winCU cfg).max < d.toNat := by simp only [winCU, win]; omega
  rw [isU, Bool.eq_false_iff, ne_eq, Window.has_iff]
  omega

/-- The four nominal durations of a bit (R160) are a group that reads as this bit. -/
theorem cocoGroup_of_bitSeq (cfg : DecoderCfg) (B : Vector Dur Config.cocoBufDepth) (k : Nat) (b : Bool)
    (h : cfg.Legal)
    (hB : ∀ j, j < 4 → (bufRead B (4 * k + (j + 1))).toNat = (cocoBitSeq b cfg.nom.toNat).getD j 0) :
    cocoGroup cfg B k = some b := by
  have unit : ∀ d : Dur, d.toNat = cfg.nom.toNat → isU cfg d = true := fun d hd =>
    win_has_nominal cfg 1 d h (by decide) (by omega)
  have long : ∀ d : Dur, d.toNat = 4 * cfg.nom.toNat → isL cfg d = true := fun d hd =>
    win_has_nominal cfg 4 d h (by decide) (by omega)
  have h0 := hB 0 (by decide)
  have h1 := hB 1 (by decide)
  have h2 := hB 2 (by decide)
  have h3 := hB 3 (by decide)
  cases b with
  | false => exact (cocoGroup_eq_some_false_iff cfg B k).2 ⟨unit _ h0, unit _ h1, unit _ h2, long _ h3⟩
  | true =>
    refine (cocoGroup_eq_some_true_iff cfg B k).2 ⟨?_, unit _ h0, long _ h1, unit _ h2, unit _ h3⟩
    rw [ne_eq, cocoGroup_eq_some_false_iff, isU_four_units cfg _ h h1]
    simp

/-- Settles O58: each group holds the durations of its bit, and the two sync entries are 10 and 40 units,
whose sum is 50. -/
theorem cocoFramesDecodeToTheirCode : Obligations.CocoFramesDecodeToTheirCode := by
  intro cfg code B hlegal hB
  have hstart : (bufRead B 0).toNat = 10 * cfg.nom.toNat := hB 0 (by decide)
  have hend : (bufRead B 130).toNat = 40 * cfg.nom.toNat :=
    (hB 130 (by decide)).trans (cocoSeq_getD_tail code _ 1 (by decide))
  have hgroup : ∀ k, k < 32 → cocoGroup cfg B k = some (code.getLsbD (31 - k)) := by
    intro k hk
    refine cocoGroup_of_bitSeq cfg B k _ hlegal fun j hj => ?_
    rw [hB _ (by omega), ← cocoSeq_getD_bit code _ k j hk hj]
    congr 1
    omega
  refine ⟨(cocoWalk_eq_some_iff cfg B code).2 hgroup,
    win_has_nominal cfg 10 _ hlegal (by decide) (by omega),
    win_has_nominal cfg 40 _ hlegal (by decide) (by omega), ?_⟩
  have hnom := cfg.nom.isLt
  rw [cocoEff, cocoEffDivisor, hstart, hend, BitVec.toNat_ofNat]
  omega

/-! ### One edge (R111 to R115, R118, R119) -/

/-- What a COCO edge whose duration is stored at index `i` writes whether or not Analyze runs (R111, R112,
R114). -/
def cocoStored (S S' : CocoState) (ts : Word) (i : Nat) : CocoState :=
  { S' with
    lastTs := ts
    origin := if isS S.cfg (duration ts S.lastTs) then ts else S'.origin
    buf := bufWrite S'.buf i (duration ts S.lastTs)
    idx := if i = 130 then 0 else BitVec.ofNat 8 (i + 1) }

/-- R111, R113: an edge stores its duration, and runs Analyze where this is an end sync at index 130. -/
theorem cocoEdge_eq (S S' : CocoState) (ts : Word) (i : Nat)
    (hi : i = if isS S.cfg (duration ts S.lastTs) then 0 else S.idx.toNat) :
    cocoEdge S S' ts =
      if isE S.cfg (duration ts S.lastTs) = true ∧ i = 130 then
        cocoAnalyze S (cocoStored S S' ts i) (bufWrite S.buf i (duration ts S.lastTs))
          (if isS S.cfg (duration ts S.lastTs) then ts else S.origin)
      else (cocoStored S S' ts i, false) := by
  have hnext : cocoStoreIdx S (duration ts S.lastTs) + 1 = BitVec.ofNat 8 (i + 1) := by
    rw [hi, ← cocoStoreIdx_toNat, BitVec.ofNat_add, BitVec.ofNat_toNat, BitVec.setWidth_eq]
    rfl
  rw [← cocoStoreIdx_toNat] at hi
  simp only [cocoEdge, cocoStored, hnext, ← hi, Bool.and_eq_true, beq_iff_eq]

theorem cocoAnalyze_of_rejected {S : CocoState} {B : Vector Dur Config.cocoBufDepth}
    (h : cocoWalk S.cfg B = none) (S' : CocoState) (org : Word) :
    cocoAnalyze S S' B org = ({ S' with eff := cocoEff B, prevCode := 0 }, false) := by
  simp only [cocoAnalyze, h]

theorem cocoAnalyze_of_code {S : CocoState} {B : Vector Dur Config.cocoBufDepth} {code : BitVec 32}
    (h : cocoWalk S.cfg B = some code) (S' : CocoState) (org : Word) :
    cocoAnalyze S S' B org = cocoFilter S { S' with eff := cocoEff B } code org := by
  simp only [cocoAnalyze, h]

/-- An edge that accepts no message writes its decoder alone. -/
theorem exec_edgeCoco_of_silent {ts : Word} {s : State} {c : CocoState}
    (h : cocoEdge s.pre.coco s.blk.coco ts = (c, false)) :
    exec (.edgeCoco ts) s = .next { s with blk := { s.blk with coco := c } } := by
  simp [exec_eq_applyOp, applyOp_edgeCoco, h]

/-- An edge that accepts a message also sets the message bit and its wire (R154). -/
theorem exec_edgeCoco_of_accept {ts : Word} {s : State} {c : CocoState}
    (h : cocoEdge s.pre.coco s.blk.coco ts = (c, true)) :
    exec (.edgeCoco ts) s = .next { s with
      set := { s.set with cocoMsg := true }
      blk := { s.blk with coco := c, st := { s.blk.st with cocoMsg := true } } } := by
  simp [exec_eq_applyOp, applyOp_edgeCoco, h]

/-- Settles O39: with no Analyze run an edge accepts nothing and stores its duration. -/
theorem cocoEdgeStores : Obligations.CocoEdgeStores := by
  rintro ts s d i rfl hi hno
  have hedge := cocoEdge_eq s.pre.coco s.blk.coco ts i hi
  rw [if_neg hno] at hedge
  exact exec_edgeCoco_of_silent hedge

/-- R113: an end sync at index 130 is Analyze of the buffer that holds it, with the frame's origin. -/
theorem cocoEdge_of_endSync (S S' : CocoState) (ts : Word) (B : Vector Dur Config.cocoBufDepth)
    (hS : isS S.cfg (duration ts S.lastTs) = false) (hE : isE S.cfg (duration ts S.lastTs) = true)
    (hidx : S.idx = 130) (hB : B = bufWrite S.buf 130 (duration ts S.lastTs)) :
    cocoEdge S S' ts = cocoAnalyze S
      { S' with lastTs := ts, buf := bufWrite S'.buf 130 (duration ts S.lastTs), idx := 0 } B S.origin := by
  rw [cocoEdge_eq S S' ts 130 (by rw [hS, hidx]; rfl), if_pos ⟨hE, rfl⟩, hB]
  simp only [cocoStored, hS, Bool.false_eq_true, if_false, if_true]

/-- R115: the estimate of a buffer whose last entry was just stored. -/
theorem cocoEff_of_bufWrite (b B : Vector Dur Config.cocoBufDepth) (d : Dur) (hB : B = bufWrite b 130 d) :
    cocoEff B = BitVec.ofNat 32 (((bufRead B 0).toNat + d.toNat) / 50) := by
  have hlast : bufRead B 130 = d := by rw [hB, bufRead_bufWrite_same _ _ _ (by decide)]
  rw [cocoEff, hlast]

/-- Settles O40: an end sync at index 130 is one Analyze, which rejects the frame or offers its code to the
filter; the filter's answer says whether the message bit is set. -/
theorem cocoEndSyncAnalyzes : Obligations.CocoEndSyncAnalyzes := by
  rintro ts s d B stored rfl hS hE hidx hB rfl
  have hedge := cocoEdge_of_endSync s.pre.coco s.blk.coco ts B hS hE hidx hB
  have heff := cocoEff_of_bufWrite s.pre.coco.buf B _ hB
  refine ⟨fun hwalk => ?_, fun code c hwalk hfilter => ?_, fun code c hwalk hfilter => ?_⟩
  · rw [cocoAnalyze_of_rejected hwalk, heff] at hedge
    exact exec_edgeCoco_of_silent hedge
  · rw [cocoAnalyze_of_code hwalk, heff] at hedge
    exact exec_edgeCoco_of_silent (hedge.trans hfilter)
  · rw [cocoAnalyze_of_code hwalk, heff] at hedge
    exact exec_edgeCoco_of_accept (hedge.trans hfilter)

/-! ### The fields of a code (R120) -/

theorem cocoAddress_toNat (c : BitVec 32) : (cocoAddress c).toNat = c.toNat / 2 ^ 6 := by
  have h := c.isLt
  rw [cocoAddress, BitVec.extractLsb'_toNat, Nat.shiftRight_eq_div_pow]
  omega

theorem cocoGroupBit_toNat (c : BitVec 32) : (cocoGroupBit c).toNat = c.toNat / 2 ^ 5 % 2 := by
  rw [cocoGroupBit, BitVec.getLsbD, Nat.toNat_testBit]

theorem cocoOnOff_toNat (c : BitVec 32) : (cocoOnOff c).toNat = c.toNat / 2 ^ 4 % 2 := by
  rw [cocoOnOff, BitVec.getLsbD, Nat.toNat_testBit]

theorem cocoChannel_toNat (c : BitVec 32) : (cocoChannel c).toNat = c.toNat % 2 ^ 4 := by
  rw [cocoChannel, BitVec.extractLsb'_toNat, Nat.shiftRight_zero]

/-- Settles O52: the four ports are the code's quotients and remainders at bits 6, 5 and 4. -/
theorem cocoFieldSplit : Obligations.CocoFieldSplit := by
  intro b
  refine ⟨?_, rfl⟩
  simp only [Block.cocoMsgCode, Block.cocoMsgAddress, Block.cocoMsgGroup, Block.cocoMsgOnOff,
    Block.cocoMsgChannel, cocoAddress_toNat, cocoGroupBit_toNat, cocoOnOff_toNat, cocoChannel_toNat]
  omega

end Sys2Proof.Machine
end

/-! ## The KFS decoder (42_kfs_decoder.md) -/

section
namespace Sys2Proof.Machine

/-! ### The pairs and the walk (R136 to R138) -/

/-- R136: the '0' pattern, which is tested first. -/
theorem kfsPair_eq_some_false_iff (cfg : DecoderCfg) (B : Vector Dur Config.kfsBufDepth) (j : Nat) :
    kfsPair cfg B j = some false ↔ isKU cfg (bufRead B j) ∧ isKL cfg (bufRead B (j + 1)) := by
  simp only [kfsPair]
  split
  · simp_all
  · split <;> simp_all

/-- R136, R137: the '1' pattern, of a pair that is not a '0'. -/
theorem kfsPair_eq_some_true_iff (cfg : DecoderCfg) (B : Vector Dur Config.kfsBufDepth) (j : Nat) :
    kfsPair cfg B j = some true ↔ kfsPair cfg B j ≠ some false
      ∧ isKL cfg (bufRead B j) ∧ isKU cfg (bufRead B (j + 1)) := by
  simp only [kfsPair]
  split
  · simp
  · split <;> simp_all

/-- R136: the first `m` pairs from entry 1 on lie inside `n` stored entries and read as the low `m` bits
of `code`, first bit at the top, with no bit above them. -/
structure KfsReads (cfg : DecoderCfg) (B : Vector Dur Config.kfsBufDepth) (n m : Nat)
    (code : BitVec 24) : Prop where
  code_lt : code.toNat < 2 ^ m
  inside : m = 0 ∨ 2 * m < n
  pairs : ∀ k, k < m → kfsPair cfg B (1 + 2 * k) = some (code.getLsbD (m - 1 - k))

theorem KfsReads.zero (cfg : DecoderCfg) (B : Vector Dur Config.kfsBufDepth) (n : Nat) :
    KfsReads cfg B n 0 0 :=
  ⟨by decide, .inl rfl, fun _ hk => absurd hk (Nat.not_lt_zero _)⟩

/-- One more matching pair is one more bit, below those read before it. -/
theorem KfsReads.succ {cfg : DecoderCfg} {B : Vector Dur Config.kfsBufDepth} {n m : Nat}
    {code : BitVec 24} {b : Bool} (h : KfsReads cfg B n m code) (hm : m < 24) (hn : 1 + 2 * m + 1 < n)
    (hpair : kfsPair cfg B (1 + 2 * m) = some b) : KfsReads cfg B n (m + 1) (shiftIn code b) := by
  obtain ⟨hcode, -, hpairs⟩ := h
  have hfit : 2 ^ (m + 1) ≤ 2 ^ 24 := Nat.pow_le_pow_right (by decide) hm
  rw [Nat.pow_succ] at hfit
  refine ⟨?_, .inr (by omega), fun k hk => ?_⟩
  · have hb := b.toNat_le
    rw [shiftIn_toNat _ _ (by omega), Nat.pow_succ]
    omega
  · rw [shiftIn_getLsbD _ _ _ (by omega), Nat.add_sub_cancel]
    by_cases hlast : k = m
    · rw [hlast, Nat.sub_self, if_pos rfl, hpair]
    · rw [if_neg (by omega), hpairs k (by omega), Nat.sub_right_comm]

/-- R136, R138: the walk stops at the cap of 24 bits, where no whole pair is left, or at a pair that
matches neither pattern. -/
def KfsStops (cfg : DecoderCfg) (B : Vector Dur Config.kfsBufDepth) (n m : Nat) : Prop :=
  m = 24 ∨ n ≤ 2 * m + 2 ∨ kfsPair cfg B (1 + 2 * m) = none

/-- From `k` pairs read, the walk reads on until it has to stop. -/
theorem kfsWalkFrom_reads {cfg : DecoderCfg} {B : Vector Dur Config.kfsBufDepth} {n room k m : Nat}
    {acc code : BitVec 24} (hroom : k + room = 24) (h : KfsReads cfg B n k acc)
    (hwalk : kfsWalkFrom cfg B n room (1 + 2 * k) acc k = (code, m)) :
    m ≤ 24 ∧ KfsReads cfg B n m code ∧ KfsStops cfg B n m := by
  induction room generalizing k acc with
  | zero =>
    obtain ⟨rfl, rfl⟩ := Prod.mk.inj hwalk
    exact ⟨by omega, h, .inl hroom⟩
  | succ room ih =>
    rw [kfsWalkFrom] at hwalk
    by_cases hn : 1 + 2 * k + 1 < n
    · rw [if_pos hn] at hwalk
      cases hpair : kfsPair cfg B (1 + 2 * k) with
      | none =>
        simp only [hpair] at hwalk
        obtain ⟨rfl, rfl⟩ := Prod.mk.inj hwalk
        exact ⟨by omega, h, .inr (.inr hpair)⟩
      | some b =>
        simp only [hpair] at hwalk
        exact ih (by omega) (h.succ (by omega) hn hpair) hwalk
    · rw [if_neg hn] at hwalk
      obtain ⟨rfl, rfl⟩ := Prod.mk.inj hwalk
      exact ⟨by omega, h, .inr (.inl (by omega))⟩

theorem kfsWalk_reads {cfg : DecoderCfg} {B : Vector Dur Config.kfsBufDepth} {n m : Nat}
    {code : BitVec 24} (h : kfsWalk cfg B n = (code, m)) :
    m ≤ 24 ∧ KfsReads cfg B n m code ∧ KfsStops cfg B n m :=
  kfsWalkFrom_reads rfl (.zero cfg B n) h

/-- Settles O45: the walk from entry 1 with nothing read, and the two patterns of a pair. -/
theorem kfsWalkReadsPairs : Obligations.KfsWalkReadsPairs := by
  refine ⟨fun cfg B j => ⟨kfsPair_eq_some_false_iff cfg B j, kfsPair_eq_some_true_iff cfg B j⟩,
    fun cfg B n m code h => ?_⟩
  obtain ⟨hcap, ⟨hcode, hinside, hpairs⟩, hstop⟩ := kfsWalk_reads h
  exact ⟨hcap, hcode, hinside, hpairs, hstop⟩

/-- Settles O46: five pairs lie inside the stored entries only if entry 10 is one of them. -/
theorem kfsCandidateNeedsElevenEntries : Obligations.KfsCandidateNeedsElevenEntries := by
  refine fun cfg B n => ⟨kfsValid_iff _, fun hvalid => ?_⟩
  cases hwalk : kfsWalk cfg B n with | mk code m
  rw [hwalk] at hvalid
  obtain ⟨-, hbits⟩ := (kfsValid_iff _).1 hvalid
  obtain ⟨hcap, ⟨-, hinside, -⟩, -⟩ := kfsWalk_reads hwalk
  dsimp only at hbits
  exact ⟨by omega, hcap⟩

/-! ### A frame of nominal durations (R173) -/

/-- A positive tolerance at most doubles the nominal, so the unit window ends at two nominal units. -/
theorem win_one_not_has_of_double_lt (cfg : DecoderCfg) (d : Dur) (h : cfg.Legal)
    (hd : 2 * cfg.nom.toNat < d.toNat) : (win cfg 1).has d = false := by
  obtain ⟨-, -, hpos, -, -⟩ := h
  have hmax : cfg.nom.toNat * 1 * (100 + cfg.pos.toNat) ≤ cfg.nom.toNat * 200 := by
    rw [Nat.mul_one]; exact Nat.mul_le_mul_left _ (by omega)
  have hwin : (win cfg 1).max < d.toNat := by simp only [win]; omega
  rw [Bool.eq_false_iff, ne_eq, Window.has_iff]
  omega

/-- The two nominal durations of a bit (R161) are a pair that reads as this bit. -/
theorem kfsPair_of_bitSeq (cfg : DecoderCfg) (B : Vector Dur Config.kfsBufDepth) (j : Nat) (b : Bool)
    (h : cfg.Legal)
    (hB : ∀ i, i < 2 → (bufRead B (j + i)).toNat = (kfsBitSeq b cfg.nom.toNat).getD i 0) :
    kfsPair cfg B j = some b := by
  have unit : ∀ d : Dur, d.toNat = cfg.nom.toNat → isKU cfg d = true := fun d hd =>
    win_has_nominal cfg 1 d h (by decide) (by omega)
  have long : ∀ d : Dur, d.toNat = 3 * cfg.nom.toNat → isKL cfg d = true := fun d hd =>
    win_has_nominal cfg 3 d h (by decide) (by omega)
  have h0 := hB 0 (by decide)
  have h1 := hB 1 (by decide)
  cases b with
  | false => exact (kfsPair_eq_some_false_iff cfg B j).2 ⟨unit _ h0, long _ h1⟩
  | true =>
    have hlong : (bufRead B j).toNat = 3 * cfg.nom.toNat := h0
    have hnom : 1 ≤ cfg.nom.toNat := h.1
    have hunit : isKU cfg (bufRead B j) = false := win_one_not_has_of_double_lt cfg _ h (by omega)
    refine (kfsPair_eq_some_true_iff cfg B j).2 ⟨?_, long _ h0, unit _ h1⟩
    rw [ne_eq, kfsPair_eq_some_false_iff, hunit]
    simp

/-- Where the first `n` pairs carry the low `n` bits of `id` and one more entry follows them, the walk
reads exactly these bits: it stops at none of the pairs, and that entry begins no whole pair. -/
theorem kfsWalk_eq_of_pairs {cfg : DecoderCfg} {B : Vector Dur Config.kfsBufDepth} {id : BitVec 32}
    {n : Nat} (hn : n ≤ 24)
    (hpair : ∀ k, k < n → kfsPair cfg B (1 + 2 * k) = some (id.getLsbD (n - 1 - k))) :
    kfsWalk cfg B (2 * n + 2) = (BitVec.ofNat 24 (id.toNat % 2 ^ n), n) := by
  cases hwalk : kfsWalk cfg B (2 * n + 2) with | mk code m
  obtain ⟨-, ⟨hcode, hinside, hpairs⟩, hstop⟩ := kfsWalk_reads hwalk
  have hm : m = n := by
    obtain hcap | hend | hnone := hstop
    · omega
    · omega
    · have hge : ¬ m < n := fun hlt => by simp [hpair m hlt] at hnone
      omega
  subst hm
  suffices hbits : code = BitVec.ofNat 24 (id.toNat % 2 ^ m) by rw [hbits]
  refine BitVec.eq_of_getLsbD_eq fun i hi => ?_
  rw [BitVec.getLsbD_ofNat, Nat.testBit_mod_two_pow, decide_eq_true hi, Bool.true_and]
  by_cases him : i < m
  · have hbit := (hpairs (m - 1 - i) (by omega)).symm.trans (hpair (m - 1 - i) (by omega))
    rw [show m - 1 - (m - 1 - i) = i by omega] at hbit
    rw [decide_eq_true him, Bool.true_and]
    exact Option.some.inj hbit
  · rw [decide_eq_false him, Bool.false_and]
    exact Nat.testBit_lt_two_pow (hcode.trans_le (Nat.pow_le_pow_right (by decide) (by omega)))

/-- Settles O59: each pair holds the durations of its bit, and the sync entry is 31 units. -/
theorem kfsFramesDecodeToTheirCode : Obligations.KfsFramesDecodeToTheirCode := by
  intro cfg id n B hlegal _ hn hB
  have hsync : (bufRead B 0).toNat = 31 * cfg.nom.toNat := hB 0 (by omega)
  refine ⟨kfsWalk_eq_of_pairs hn fun k hk => ?_,
    win_has_nominal cfg 31 _ hlegal (by decide) (by omega)⟩
  refine kfsPair_of_bitSeq cfg B _ _ hlegal fun i hi => ?_
  rw [hB _ (by omega), ← kfsSeq_getD_bit id n _ k i hk hi]
  congr 1
  omega

/-! ### One edge (R130 to R135, R139 to R141) -/

/-- An edge that accepts no message writes its decoder alone. -/
theorem exec_edgeKfs_of_silent {ts : Word} {s : State} {k : KfsState}
    (h : kfsEdge s.pre.kfs s.blk.kfs ts = (k, false)) :
    exec (.edgeKfs ts) s = .next { s with blk := { s.blk with kfs := k } } := by
  simp [exec_eq_applyOp, applyOp_edgeKfs, h]

/-- An edge that accepts a message also sets the message bit and its wire (R154). -/
theorem exec_edgeKfs_of_accept {ts : Word} {s : State} {k : KfsState}
    (h : kfsEdge s.pre.kfs s.blk.kfs ts = (k, true)) :
    exec (.edgeKfs ts) s = .next { s with
      set := { s.set with kfsMsg := true }
      blk := { s.blk with kfs := k, st := { s.blk.st with kfsMsg := true } } } := by
  simp [exec_eq_applyOp, applyOp_edgeKfs, h]

/-- R130: the first edge computes no duration and stores nothing. -/
theorem kfsEdge_first (S S' : KfsState) (ts : Word) (h : S.seen = false) :
    kfsEdge S S' ts = ({ S' with seen := true, lastTs := ts }, false) := by
  rw [kfsEdge, h, if_neg Bool.false_ne_true]

/-- What a later KFS edge whose duration is stored at index `i` writes over what Analyze, where it runs,
leaves in `K` (R132 to R135). -/
def kfsStored (S K : KfsState) (ts : Word) (i : Nat) : KfsState :=
  { K with
    lastTs := ts
    origin := if isKS S.cfg (duration ts S.lastTs) then ts else K.origin
    buf := bufWrite K.buf i (duration ts S.lastTs)
    idx := BitVec.ofNat 7 (i + 1) }

/-- The index at which a later KFS edge stores its duration (R133, R134). -/
def kfsStoreIdx (S : KfsState) (ts : Word) : Nat :=
  if isKS S.cfg (duration ts S.lastTs) then 0 else if S.idx.toNat = 67 then 0 else S.idx.toNat

/-- R132: a later edge runs Analyze where it is a sync with at least 5 stored durations, and then stores
its duration in any case. -/
theorem kfsEdge_later (S S' : KfsState) (ts : Word) (h : S.seen = true) :
    kfsEdge S S' ts =
      if isKS S.cfg (duration ts S.lastTs) = true ∧ 5 ≤ S.idx.toNat then
        (kfsStored S (kfsAnalyze S S' S.buf S.idx.toNat S.origin).1 ts (kfsStoreIdx S ts),
          (kfsAnalyze S S' S.buf S.idx.toNat S.origin).2)
      else (kfsStored S S' ts (kfsStoreIdx S ts), false) := by
  have hidx : (if isKS S.cfg (duration ts S.lastTs) then (0 : BitVec 7)
      else if S.idx.toNat = 67 then 0 else S.idx) = BitVec.ofNat 7 (kfsStoreIdx S ts) := by
    simp only [kfsStoreIdx, apply_ite (BitVec.ofNat 7), BitVec.ofNat_toNat, BitVec.setWidth_eq]
    rfl
  have hlt : kfsStoreIdx S ts < 2 ^ 7 := by
    have := S.idx.isLt
    rw [kfsStoreIdx]
    split_ifs <;> omega
  simp only [kfsEdge, h, if_true, hidx, Bool.and_eq_true, decide_eq_true_eq, kfsStored,
    BitVec.toNat_ofNat, Nat.mod_eq_of_lt hlt, BitVec.ofNat_add]
  split_ifs <;> rfl

/-- Settles O43: the first edge, and a later one that runs no Analyze, accept nothing. -/
theorem kfsEdgeStores : Obligations.KfsEdgeStores := by
  refine ⟨fun ts s hseen => exec_edgeKfs_of_silent (kfsEdge_first _ _ ts hseen), ?_⟩
  rintro ts s d i hseen rfl rfl hno
  have hedge := kfsEdge_later s.pre.kfs s.blk.kfs ts hseen
  rw [if_neg hno] at hedge
  exact exec_edgeKfs_of_silent hedge

/-- R133: a sync with at least 5 stored durations is Analyze of the entries before it, and then starts the
next frame. -/
theorem kfsEdge_of_sync {S S' K : KfsState} {ts : Word} {accepted : Bool} (hseen : S.seen = true)
    (hsync : isKS S.cfg (duration ts S.lastTs) = true) (hidx : 5 ≤ S.idx.toNat)
    (han : kfsAnalyze S S' S.buf S.idx.toNat S.origin = (K, accepted)) :
    kfsEdge S S' ts = ({ K with
      lastTs := ts, origin := ts, buf := bufWrite K.buf 0 (duration ts S.lastTs), idx := 1 }, accepted) := by
  rw [kfsEdge_later S S' ts hseen, if_pos ⟨hsync, hidx⟩, han]
  simp only [kfsStored, kfsStoreIdx, hsync, if_true]
  rfl

/-- R141: an invalid walk clears the recorded code. -/
theorem kfsAnalyze_of_invalid {S : KfsState} {B : Vector Dur Config.kfsBufDepth} {n m : Nat}
    {code : BitVec 24} (hwalk : kfsWalk S.cfg B n = (code, m)) (h : code = 0 ∨ m < 5) (S' : KfsState)
    (org : Word) : kfsAnalyze S S' B n org = ({ S' with prevCode := 0 }, false) := by
  have hvalid : ¬ kfsValid (code, m) = true := by
    rw [kfsValid_iff, not_and_or, not_not, Nat.not_le]
    exact h
  rw [kfsAnalyze, hwalk, if_neg hvalid]

/-- R139, R140: a valid candidate goes to the repeat filter with its bit length. -/
theorem kfsAnalyze_of_candidate {S : KfsState} {B : Vector Dur Config.kfsBufDepth} {n m : Nat}
    {code : BitVec 24} (hwalk : kfsWalk S.cfg B n = (code, m)) (hcode : code ≠ 0) (hm : 5 ≤ m)
    (S' : KfsState) (org : Word) :
    kfsAnalyze S S' B n org = kfsFilter S S' code (BitVec.ofNat 5 m) org := by
  rw [kfsAnalyze, hwalk, if_pos ((kfsValid_iff _).2 ⟨hcode, hm⟩)]

/-- Settles O44: the sync is one Analyze, which rejects the walk or offers its code to the filter; the
filter's answer says whether the message bit is set. -/
theorem kfsSyncAnalyzes : Obligations.KfsSyncAnalyzes := by
  rintro ts s d code n hseen rfl hsync hidx hwalk
  refine ⟨fun hinvalid => ?_, fun k hcode hn hfilter => ?_, fun k hcode hn hfilter => ?_⟩
  · exact exec_edgeKfs_of_silent
      (kfsEdge_of_sync hseen hsync hidx (kfsAnalyze_of_invalid hwalk hinvalid _ _))
  · exact exec_edgeKfs_of_silent
      (kfsEdge_of_sync hseen hsync hidx ((kfsAnalyze_of_candidate hwalk hcode hn _ _).trans hfilter))
  · exact exec_edgeKfs_of_accept
      (kfsEdge_of_sync hseen hsync hidx ((kfsAnalyze_of_candidate hwalk hcode hn _ _).trans hfilter))

end Sys2Proof.Machine
end

/-! ## The repeat filter (43_repeat_filter.md) -/

section
namespace Sys2Proof.Machine

/-! ### The verdict (R150 to R152, R158) -/

/-- R153: the one way to an accept. -/
theorem filterVerdict_eq_accept_iff (cfg : DecoderCfg) (same : Bool) (reps : BitVec 9) (lastHit t : Word) :
    filterVerdict cfg same reps lastHit t = .accept ↔
      same = true ∧ min (reps.toNat + 1) 511 = cfg.rep.toNat
        ∧ cfg.ref.toNat * 1000000 < (t - lastHit).toNat := by
  rw [filterVerdict_eq]
  split_ifs <;> simp_all

/-- R152: a repeat that is not accepted counts. -/
theorem filterVerdict_of_repeat {cfg : DecoderCfg} {reps : BitVec 9} {lastHit t : Word}
    (h : min (reps.toNat + 1) 511 ≠ cfg.rep.toNat ∨ (t - lastHit).toNat ≤ cfg.ref.toNat * 1000000) :
    filterVerdict cfg true reps lastHit t = .count (BitVec.ofNat 9 (min (reps.toNat + 1) 511)) := by
  rw [filterVerdict_eq, if_pos rfl, if_neg (by omega)]

/-- R155: a different candidate is recorded. -/
theorem filterVerdict_of_different (cfg : DecoderCfg) (reps : BitVec 9) (lastHit t : Word) :
    filterVerdict cfg false reps lastHit t = .record := by
  rw [filterVerdict_eq, if_neg Bool.false_ne_true]

/-- Settles O50: an accept needs a count, which is never 0, equal to `rep`, and a time since the last hit
beyond the refractory period; and `rep` has 8 bits, so a count of 511 is not it. -/
theorem filterNeverAccepts : Obligations.FilterNeverAccepts := by
  intro cfg same reps lastHit t
  refine ⟨fun hrep haccept => ?_, fun ht haccept => ?_, fun hreps => ?_⟩
  · obtain ⟨-, hcount, -⟩ := (filterVerdict_eq_accept_iff ..).1 haccept
    simp [hrep] at hcount
  · obtain ⟨-, -, hlate⟩ := (filterVerdict_eq_accept_iff ..).1 haccept
    rw [sub_zero] at hlate
    omega
  · subst hreps
    have hrep : cfg.rep.toNat < 256 := cfg.rep.isLt
    have hmin : min ((511 : BitVec 9).toNat + 1) 511 = 511 := rfl
    exact filterVerdict_of_repeat (.inl (by omega))

/-! ### One candidate (R150 to R155) -/

/-- Settles O47: each branch of R150 is one verdict. -/
theorem cocoFilterSteps : Obligations.CocoFilterSteps := by
  rintro S S' code t r rfl
  refine ⟨fun hcode hr href => ?_, fun hcode hno => ?_, fun hcode => ?_⟩
  · rw [cocoFilter, (filterVerdict_eq_accept_iff ..).2 ⟨beq_iff_eq.2 hcode, hr, href⟩]
  · rw [cocoFilter, beq_iff_eq.2 hcode, filterVerdict_of_repeat hno]
  · rw [cocoFilter, beq_eq_false_iff_ne.2 hcode, filterVerdict_of_different]

/-- Settles O48: each branch of R150 is one verdict, where a repeat matches the code and the length. -/
theorem kfsFilterSteps : Obligations.KfsFilterSteps := by
  rintro S S' code len t r rfl
  have hsame (hcode : code = S.prevCode) (hlen : len = S.prevLen) :
      (code == S.prevCode && len == S.prevLen) = true :=
    Bool.and_eq_true_iff.2 ⟨beq_iff_eq.2 hcode, beq_iff_eq.2 hlen⟩
  refine ⟨fun hcode hlen hr href => ?_, fun hcode hlen hno => ?_, fun hne => ?_⟩
  · rw [kfsFilter, (filterVerdict_eq_accept_iff ..).2 ⟨hsame hcode hlen, hr, href⟩]
  · rw [kfsFilter, hsame hcode hlen, filterVerdict_of_repeat hno]
  · have hdiff : (code == S.prevCode && len == S.prevLen) = false := by
      rwa [Bool.and_eq_false_iff, beq_eq_false_iff_ne, beq_eq_false_iff_ne]
    rw [kfsFilter, hdiff, filterVerdict_of_different]

/-! ### Candidates one after the other (R157) -/

/-- Offers to any filter `f` of a state and a timestamp: the last state and, in order, each verdict. -/
def offers {σ : Type} (f : σ → Word → σ × Bool) : σ → List Word → σ × List Bool
  | s, [] => (s, [])
  | s, t :: ts => ((offers f (f s t).1 ts).1, (f s t).2 :: (offers f (f s t).1 ts).2)

theorem cocoOffers_eq (code : BitVec 32) (c : CocoState) (ts : List Word) :
    cocoOffers code c ts = offers (fun c t => cocoFilter c c code t) c ts := by
  induction ts generalizing c with
  | nil => rfl
  | cons t ts ih => simp only [cocoOffers, offers, ih]

theorem kfsOffers_eq (code : BitVec 24) (len : BitVec 5) (k : KfsState) (ts : List Word) :
    kfsOffers code len k ts = offers (fun k t => kfsFilter k k code len t) k ts := by
  induction ts generalizing k with
  | nil => rfl
  | cons t ts ih => simp only [kfsOffers, offers, ih]

/-- A filter that counts down accepts exactly the last offer: where `P n` says that `n` candidates are
counted before the accept, `n + 1` offers are `n` rejections and the accept. -/
theorem offers_countdown {σ : Type} {f : σ → Word → σ × Bool} {P : Nat → σ → Prop} {Q : Word → Prop}
    {R : σ → Prop} (hcount : ∀ n s t, Q t → P (n + 1) s → (f s t).2 = false ∧ P n (f s t).1)
    (haccept : ∀ s t, Q t → P 0 s → (f s t).2 = true ∧ R (f s t).1)
    {n : Nat} {s : σ} {ts : List Word} (hs : P n s) (hlen : ts.length = n + 1) (hts : ∀ t ∈ ts, Q t) :
    (offers f s ts).2 = List.replicate n false ++ [true] ∧ R (offers f s ts).1 := by
  induction ts generalizing n s with
  | nil => simp at hlen
  | cons t ts ih =>
    obtain ⟨ht, hrest⟩ := List.forall_mem_cons.1 hts
    rw [List.length_cons, Nat.add_right_cancel_iff] at hlen
    cases n with
    | zero =>
      obtain ⟨hv, hR⟩ := haccept s t ht hs
      rw [List.eq_nil_of_length_eq_zero hlen]
      exact ⟨congrArg (fun b => [b]) hv, hR⟩
    | succ n =>
      obtain ⟨hv, hP⟩ := hcount n s t ht hs
      obtain ⟨hvs, hR⟩ := ih hP hlen hrest
      exact ⟨by rw [offers, hv, hvs]; rfl, hR⟩

/-- What the repeat count becomes below its bound, as a number. -/
theorem counted_toNat {reps : BitVec 9} {rep : BitVec 8} (h : reps.toNat < rep.toNat) :
    min (reps.toNat + 1) 511 = reps.toNat + 1
      ∧ (BitVec.ofNat 9 (min (reps.toNat + 1) 511)).toNat = reps.toNat + 1 := by
  have hrep := rep.isLt
  have hmin : min (reps.toNat + 1) 511 = reps.toNat + 1 := by omega
  exact ⟨hmin, by rw [hmin, BitVec.toNat_ofNat]; omega⟩

/-- `c` has recorded `code` under `c₀`'s configuration and last hit, and `n` more repeats are counted
before one is accepted. -/
structure CocoHolds (c₀ : CocoState) (code : BitVec 32) (n : Nat) (c : CocoState) : Prop where
  cfg : c.cfg = c₀.cfg
  lastHit : c.lastHit = c₀.lastHit
  code : c.prevCode = code
  count : c.reps.toNat + (n + 1) = c₀.cfg.rep.toNat

/-- As `CocoHolds`, with the length recorded too. -/
structure KfsHolds (k₀ : KfsState) (code : BitVec 24) (len : BitVec 5) (n : Nat) (k : KfsState) : Prop where
  cfg : k.cfg = k₀.cfg
  lastHit : k.lastHit = k₀.lastHit
  code : k.prevCode = code
  len : k.prevLen = len
  count : k.reps.toNat + (n + 1) = k₀.cfg.rep.toNat

/-- A counted repeat of a held code leaves one fewer to count. -/
theorem CocoHolds.counted {c₀ c : CocoState} {code : BitVec 32} {n : Nat} (h : CocoHolds c₀ code (n + 1) c)
    (t : Word) : (cocoFilter c c code t).2 = false ∧ CocoHolds c₀ code n (cocoFilter c c code t).1 := by
  obtain ⟨hcfg, hhit, hcode, hcount⟩ := h
  obtain ⟨hmin, hreps⟩ := counted_toNat (reps := c.reps) (rep := c₀.cfg.rep) (by omega)
  obtain ⟨-, hstep, -⟩ := cocoFilterSteps c c code t _ rfl
  rw [hstep hcode.symm (.inl (by rw [hmin, hcfg]; omega))]
  exact ⟨rfl, hcfg, hhit, hcode, by rw [hreps]; omega⟩

/-- The last repeat of a held code is accepted outside the refractory period, and the code stays recorded
with count 0. -/
theorem CocoHolds.accepted {c₀ c : CocoState} {code : BitVec 32} (h : CocoHolds c₀ code 0 c) (t : Word)
    (ht : c₀.cfg.ref.toNat * 1000000 < (t - c₀.lastHit).toNat) :
    (cocoFilter c c code t).2 = true
      ∧ (cocoFilter c c code t).1.prevCode = code ∧ (cocoFilter c c code t).1.reps = 0 := by
  obtain ⟨hcfg, hhit, hcode, hcount⟩ := h
  obtain ⟨hmin, -⟩ := counted_toNat (reps := c.reps) (rep := c₀.cfg.rep) (by omega)
  obtain ⟨hstep, -, -⟩ := cocoFilterSteps c c code t _ rfl
  rw [hstep hcode.symm (by rw [hmin, hcfg, ← hcount]) (by rwa [hcfg, hhit])]
  exact ⟨rfl, hcode, rfl⟩

theorem KfsHolds.counted {k₀ k : KfsState} {code : BitVec 24} {len : BitVec 5} {n : Nat}
    (h : KfsHolds k₀ code len (n + 1) k) (t : Word) :
    (kfsFilter k k code len t).2 = false ∧ KfsHolds k₀ code len n (kfsFilter k k code len t).1 := by
  obtain ⟨hcfg, hhit, hcode, hlen, hcount⟩ := h
  obtain ⟨hmin, hreps⟩ := counted_toNat (reps := k.reps) (rep := k₀.cfg.rep) (by omega)
  obtain ⟨-, hstep, -⟩ := kfsFilterSteps k k code len t _ rfl
  rw [hstep hcode.symm hlen.symm (.inl (by rw [hmin, hcfg]; omega))]
  exact ⟨rfl, hcfg, hhit, hcode, hlen, by rw [hreps]; omega⟩

theorem KfsHolds.accepted {k₀ k : KfsState} {code : BitVec 24} {len : BitVec 5}
    (h : KfsHolds k₀ code len 0 k) (t : Word)
    (ht : k₀.cfg.ref.toNat * 1000000 < (t - k₀.lastHit).toNat) :
    (kfsFilter k k code len t).2 = true
      ∧ (kfsFilter k k code len t).1.prevCode = code ∧ (kfsFilter k k code len t).1.reps = 0 := by
  obtain ⟨hcfg, hhit, hcode, hlen, hcount⟩ := h
  obtain ⟨hmin, -⟩ := counted_toNat (reps := k.reps) (rep := k₀.cfg.rep) (by omega)
  obtain ⟨hstep, -, -⟩ := kfsFilterSteps k k code len t _ rfl
  rw [hstep hcode.symm hlen.symm (by rw [hmin, hcfg, ← hcount]) (by rwa [hcfg, hhit])]
  exact ⟨rfl, hcode, rfl⟩

/-- R157 from a code already recorded. -/
theorem CocoHolds.offers {c₀ c : CocoState} {code : BitVec 32} {n : Nat} {ts : List Word}
    (h : CocoHolds c₀ code n c) (hlen : ts.length = n + 1)
    (hts : ∀ t ∈ ts, c₀.cfg.ref.toNat * 1000000 < (t - c₀.lastHit).toNat) :
    (cocoOffers code c ts).2 = List.replicate n false ++ [true]
      ∧ (cocoOffers code c ts).1.prevCode = code ∧ (cocoOffers code c ts).1.reps = 0 := by
  rw [cocoOffers_eq]
  exact offers_countdown (R := fun c => c.prevCode = code ∧ c.reps = 0)
    (fun _ _ t _ hc => hc.counted t) (fun _ t ht hc => hc.accepted t ht) h hlen hts

theorem KfsHolds.offers {k₀ k : KfsState} {code : BitVec 24} {len : BitVec 5} {n : Nat} {ts : List Word}
    (h : KfsHolds k₀ code len n k) (hlen : ts.length = n + 1)
    (hts : ∀ t ∈ ts, k₀.cfg.ref.toNat * 1000000 < (t - k₀.lastHit).toNat) :
    (kfsOffers code len k ts).2 = List.replicate n false ++ [true]
      ∧ (kfsOffers code len k ts).1.prevCode = code ∧ (kfsOffers code len k ts).1.reps = 0 := by
  rw [kfsOffers_eq]
  exact offers_countdown (R := fun k => k.prevCode = code ∧ k.reps = 0)
    (fun _ _ t _ hk => hk.counted t) (fun _ t ht hk => hk.accepted t ht) h hlen hts

/-- Settles O49: a different code is recorded by its first offer, and a code recorded with count 0 counts
down from `rep - 1` to the accept. -/
theorem framesNeededForAnAccept : Obligations.FramesNeededForAnAccept := by
  refine ⟨fun c code t0 ts hrep hlen hts => ?_, fun k code len t0 ts hrep hlen hts => ?_⟩
  · have hcount : 0 + (c.cfg.rep.toNat - 1 + 1) = c.cfg.rep.toNat := by omega
    refine ⟨fun hnew => ?_, fun hcode hreps => ?_⟩
    · obtain ⟨-, -, hrecord⟩ := cocoFilterSteps c c code t0 _ rfl
      have hheld : CocoHolds c code (c.cfg.rep.toNat - 1) { c with reps := 0, prevCode := code } :=
        ⟨rfl, rfl, rfl, hcount⟩
      rw [cocoOffers, hrecord hnew.symm, (hheld.offers (by omega) hts).1]
    · have hheld : CocoHolds c code (c.cfg.rep.toNat - 1) c := ⟨rfl, rfl, hcode, by rw [hreps]; exact hcount⟩
      exact hheld.offers (by omega) hts
  · have hcount : 0 + (k.cfg.rep.toNat - 1 + 1) = k.cfg.rep.toNat := by omega
    refine ⟨fun hnew => ?_, fun hcode hklen hreps => ?_⟩
    · obtain ⟨-, -, hrecord⟩ := kfsFilterSteps k k code len t0 _ rfl
      have hheld : KfsHolds k code len (k.cfg.rep.toNat - 1)
          { k with reps := 0, prevCode := code, prevLen := len } := ⟨rfl, rfl, rfl, rfl, hcount⟩
      rw [kfsOffers, hrecord (hnew.imp Ne.symm Ne.symm), (hheld.offers (by omega) hts).1]
    · have hheld : KfsHolds k code len (k.cfg.rep.toNat - 1) k :=
        ⟨rfl, rfl, hcode, hklen, by rw [hreps]; exact hcount⟩
      exact hheld.offers (by omega) hts

/-! ### The strobe over a cycle (R154, R156) -/

/-- A COCO slot that ends with the strobe 1 had an edge, and that edge accepted. -/
theorem cocoSlot_of_strobe {c : CycleIn} {s : State} (h : (cocoSlot c s).1.strobe = true) :
    c.cocoValid = true ∧ (cocoSlot c s).1.msgTs = (cocoSlot c s).1.lastHit ∧ (cocoSlot c s).1.reps = 0
      ∧ (cocoSlot c s).1.msgCode = s.blk.coco.prevCode := by
  rw [cocoSlot_strobe] at h
  unfold cocoSlot at h ⊢
  split at h
  · rename_i hvalid
    obtain ⟨-, -, -, -, -, -, haccept⟩ := cocoEdge_frame s.blk.coco { s.blk.coco with strobe := false } c.t
    obtain ⟨-, hreps, hts, hcode⟩ := haccept h
    rw [if_pos hvalid]
    exact ⟨hvalid, hts, hreps, hcode⟩
  · exact absurd h Bool.false_ne_true

theorem kfsSlot_of_strobe {c : CycleIn} {s : State} (h : (kfsSlot c s).1.strobe = true) :
    c.kfsValid = true ∧ (kfsSlot c s).1.msgTs = (kfsSlot c s).1.lastHit ∧ (kfsSlot c s).1.reps = 0
      ∧ (kfsSlot c s).1.msgId = s.blk.kfs.prevCode ∧ (kfsSlot c s).1.msgLen = s.blk.kfs.prevLen := by
  rw [kfsSlot_strobe] at h
  unfold kfsSlot at h ⊢
  split at h
  · rename_i hvalid
    obtain ⟨-, -, -, -, -, haccept⟩ := kfsEdge_frame s.blk.kfs { s.blk.kfs with strobe := false } c.u
    obtain ⟨-, hreps, hts, hid, hlen⟩ := haccept h
    rw [if_pos hvalid]
    exact ⟨hvalid, hts, hreps, hid, hlen⟩
  · exact absurd h Bool.false_ne_true

/-- Settles O11: RESET leaves both strobes 0; with R = 0 a strobe is an accept of its own edge slot, whose
wire sets the sticky bit, and the bus operation touches only the configuration. -/
theorem strobesMarkAccepts : Obligations.StrobesMarkAccepts := by
  intro s t c hc
  cases hrst : c.rst
  · obtain ⟨hcocoMsg, hkfsMsg, -, -, -, hcocoWire, hkfsWire, -⟩ := stickyBitsMerge s t c hrst hc
    rw [cycle_of_running c s hrst] at hc
    cases hc
    have hbus := (decodeBus_wellFormed c).2
    obtain ⟨f, hf⟩ := bus_coco (decodeBus c) hbus
    obtain ⟨g, hg⟩ := bus_kfs (decodeBus c) hbus
    refine ⟨fun hstrobe => ?_, fun hstrobe => ?_⟩
    · rw [hcocoWire, hstrobe, Bool.or_true] at hcocoMsg
      rw [hf, afterSlots_coco] at hstrobe ⊢
      obtain ⟨hvalid, hmsg⟩ := cocoSlot_of_strobe hstrobe
      exact ⟨rfl, hvalid, hcocoMsg, hmsg⟩
    · rw [hkfsWire, hstrobe, Bool.or_true] at hkfsMsg
      rw [hg, afterSlots_kfs] at hstrobe ⊢
      obtain ⟨hvalid, hmsg⟩ := kfsSlot_of_strobe hstrobe
      exact ⟨rfl, hvalid, hkfsMsg, hmsg⟩
  · rw [cycle_of_reset c s hrst, applyOp_reset] at hc
    cases hc
    exact ⟨fun hstrobe => absurd hstrobe Bool.false_ne_true, fun hstrobe => absurd hstrobe Bool.false_ne_true⟩

end Sys2Proof.Machine
end

/-! ## The encoder (44_encoder.md) -/

section
namespace Sys2Proof.Machine

/-! ### The sequences (R160, R161) -/

theorem getElem?_of_getD {l : List Nat} {i v : Nat} (hi : i < l.length) (h : l.getD i 0 = v) :
    l[i]? = some v := by
  rw [List.getElem?_eq_getElem hi, ← h, List.getD_eq_getElem l 0 hi]

theorem cocoSeq_drop_head (c : BitVec 32) (u : Nat) : (cocoSeq c u).drop 2 = cocoBits128 c u ++ [u, 40 * u] := by
  rw [cocoSeq_eq]
  rfl

theorem kfsSeq_drop_head (id : BitVec 32) (n u : Nat) : (kfsSeq id n u).drop 2 = kfsBitDurations id n u := rfl

/-- The four durations of bit `31 − k` (R160). -/
theorem cocoSeq_drop_take (c : BitVec 32) (u k : Nat) (hk : k < 32) :
    ((cocoSeq c u).drop (2 + 4 * k)).take 4 = cocoBitSeq (c.getLsbD (31 - k)) u := by
  have hblock := flatMap_drop_take_of_block (fun k => cocoBitSeq (c.getLsbD (31 - k)) u) 4 (by simp)
    (List.range 32) k (by simpa using hk)
  have hroom : 4 ≤ ((cocoBits128 c u).drop (4 * k)).length := by
    rw [List.length_drop, cocoBits128_length]
    omega
  rw [← List.drop_drop, cocoSeq_drop_head,
    List.drop_append_of_le_length (by rw [cocoBits128_length]; omega), List.take_append_of_le_length hroom,
    cocoBits128, hblock, List.getElem_range]

/-- The two durations of bit `n − 1 − k` (R161). -/
theorem kfsSeq_drop_take (id : BitVec 32) (n u k : Nat) (hk : k < n) :
    ((kfsSeq id n u).drop (2 + 2 * k)).take 2 = kfsBitSeq (id.getLsbD (n - 1 - k)) u := by
  have hblock := flatMap_drop_take_of_block (fun k => kfsBitSeq (id.getLsbD (n - 1 - k)) u) 2 (by simp)
    (List.range n) k (by simpa using hk)
  rw [← List.drop_drop, kfsSeq_drop_head, kfsBitDurations, hblock, List.getElem_range]

/-- Settles O34: both sequences are a head, one block of durations for each bit, and for COCO a tail. -/
theorem sequenceShapes : Obligations.SequenceShapes := by
  refine ⟨fun c u => ⟨cocoSeq_length c u, cocoSeq_sum c u, rfl, rfl, ?_, ?_, fun k hk => ?_⟩,
    fun id n u => ⟨kfsSeq_length id n u, kfsSeq_sum id n u, rfl, rfl, fun k hk => ?_⟩⟩
  · exact getElem?_of_getD (by rw [cocoSeq_length]; decide) (cocoSeq_getD_tail c u 0 (by decide))
  · exact getElem?_of_getD (by rw [cocoSeq_length]; decide) (cocoSeq_getD_tail c u 1 (by decide))
  · exact cocoSeq_drop_take c u k hk
  · exact kfsSeq_drop_take id n u k hk

/-! ### WR TX_CTRL (R165, R216) -/

theorem dPin_eq_ofNat (d : Word) : dPin d = BitVec.ofNat 4 (d.toNat / 2 ^ 4 % 2 ^ 4) := field_eq_ofNat 4 4 d

theorem dPin_toNat (d : Word) : (dPin d).toNat = d.toNat / 2 ^ 4 % 2 ^ 4 := field_toNat 4 4 d

theorem dProto_eq_ite (d : Word) : dProto d = if d.getLsbD 1 then .kfs else .coco := by
  unfold dProto Proto.ofBit
  cases d.getLsbD 1 <;> rfl

/-- With START = 0 the write only stores PROTO and PIN. -/
theorem applyOp_wrTxCtrl_store {d : Word} (h : dStart d = false) (s : State) :
    applyOp (.wrTxCtrl d) s = s.setTx { s.blk.tx with proto := dProto d, pin := dPin d } := by
  rw [applyOp_wrTxCtrl, h]
  rfl

/-- A start is refused while the sequencer is busy, whatever its pin. -/
theorem applyOp_wrTxCtrl_busy {d : Word} {s : State} (h : dStart d = true) (hbusy : s.pre.seq.busy = true) :
    applyOp (.wrTxCtrl d) s
      = (s.setTx { s.blk.tx with proto := dProto d, pin := dPin d }).txRefused 0x08 := by
  rw [applyOp_wrTxCtrl, h, hbusy]
  rfl

/-- A start of an idle sequencer is refused for a pin that does not exist. -/
theorem applyOp_wrTxCtrl_noPin {d : Word} {s : State} (h : dStart d = true) (hidle : s.pre.seq.busy = false)
    (hpin : (dPin d).toNat = 0 ∨ s.params.nTxPins < (dPin d).toNat) :
    applyOp (.wrTxCtrl d) s
      = (s.setTx { s.blk.tx with proto := dProto d, pin := dPin d }).txRefused 0x07 := by
  rw [applyOp_wrTxCtrl, h, hidle]
  exact if_pos hpin

/-- A start of an idle sequencer with a pin that exists. -/
theorem applyOp_wrTxCtrl_start {d : Word} {s : State} (h : dStart d = true) (hidle : s.pre.seq.busy = false)
    (hpin : 1 ≤ (dPin d).toNat) (hpins : (dPin d).toNat ≤ s.params.nTxPins) :
    applyOp (.wrTxCtrl d) s
      = (s.setTx { s.blk.tx with proto := dProto d, pin := dPin d }).setSeq
          (startSeq s.params s.pre.tx (dProto d) (dPin d)) := by
  have hexists : ¬ ((dPin d).toNat = 0 ∨ s.params.nTxPins < (dPin d).toNat) := by omega
  rw [applyOp_wrTxCtrl, h, hidle]
  exact if_neg hexists

/-- Settles O32: the three outcomes of the write that start nothing. -/
theorem transmitControlWithoutStart : Obligations.TransmitControlWithoutStart := by
  rintro d s u pin rfl rfl
  rw [← dProto_eq_ite, ← dPin_eq_ofNat, ← dPin_toNat, exec_eq_applyOp]
  refine ⟨fun h => ?_, fun h hbusy => ?_, fun h hidle hpin => ?_⟩
  · rw [applyOp_wrTxCtrl_store h]
    rfl
  · rw [applyOp_wrTxCtrl_busy h hbusy]
    rfl
  · rw [applyOp_wrTxCtrl_noPin h hidle hpin]
    rfl

/-- The counter of legal parameters holds the exact product for every duration of up to 40 units (R164). -/
theorem cycleCount_of_le {p : Config.Params} (hp : ParamsLegal p) {q : Nat} (h : q ≤ 40 * 65535) :
    cycleCount p q = BitVec.ofNat 64 (q * p.cyclesPerUs) := by
  obtain ⟨-, hfits, -⟩ := hp
  exact cycleCount_of_fits p q (lt_of_le_of_lt (Nat.mul_le_mul_right _ h) hfits)

theorem cycleCount_unit {p : Config.Params} (hp : ParamsLegal p) (u : BitVec 16) :
    cycleCount p u.toNat = BitVec.ofNat 64 (u.toNat * p.cyclesPerUs) := cycleCount_of_le hp (by omega)

/-- Settles O31: the start latches what `startSeq` takes from the pre-state. -/
theorem transmitStart : Obligations.TransmitStart := by
  rintro d s pin hp h hidle rfl hpin hpins
  rw [← dPin_toNat] at hpin hpins
  rw [← dPin_eq_ofNat, exec_eq_applyOp, applyOp_wrTxCtrl_start h hidle hpin hpins, dProto_eq_ite,
    ← cycleCount_unit hp, ← cycleCount_unit hp]
  refine ⟨fun hproto => ?_, fun hproto => ?_⟩
  · rw [hproto]
    rfl
  · rw [hproto, BitVec.ofNat_toNat]
    rfl

/-! ### What a cycle does to the sequencer (R169, R170) -/

/-- The sequencer after a cycle with R = 0 that found it busy: the tick alone writes it. -/
theorem cycle_seq_of_busy {c : CycleIn} {s t : State} (hrst : c.rst = false) (hbusy : s.blk.seq.busy = true)
    (hc : cycle c s = .next t) : t.blk.seq = (seqTick s.params s.blk.seq s.blk.seq).1 := by
  rw [cycle_of_running c s hrst] at hc
  cases hc
  rw [bus_seq _ _ (decodeBus_wellFormed c).2 hbusy]
  exact congrArg Prod.fst (if_pos hbusy)

/-- R167: a cycle with R = 0 that ends a transmission sets TX_DONE, even beside a clear of it (R69). -/
theorem cycle_txDone {c : CycleIn} {s t : State} (hrst : c.rst = false) (hbusy : s.blk.seq.busy = true)
    (hc : cycle c s = .next t) (hidle : t.blk.seq.busy = false) : t.blk.st.txDone = true := by
  obtain ⟨-, -, -, -, hdone, -, -, hwire⟩ := stickyBitsMerge s t c hrst hc
  rw [hdone, hwire, hbusy, hidle]
  exact Bool.or_true _

/-- Settles O13: the tick reads the state before the cycle and none of its inputs. -/
theorem runningTransmissionIsUndisturbed : Obligations.RunningTransmissionIsUndisturbed :=
  fun _ _ _ _ _ hbusy hrst hrst' hc he =>
    ⟨(cycle_seq_of_busy hrst hbusy hc).trans (cycle_seq_of_busy hrst' hbusy he).symm, cycle_txDone hrst hbusy hc⟩

/-- R165: a bus operation that finds the sequencer idle and leaves it busy is a start. -/
theorem bus_starts {i : Instr} {s : State} (hs : i.slot = .bus) (hidle : s.blk.seq.busy = false)
    (hbusy : (applyOp i s).blk.seq.busy = true) :
    ∃ d, i = .wrTxCtrl d ∧ dStart d = true ∧ 1 ≤ (dPin d).toNat ∧ (dPin d).toNat ≤ s.params.nTxPins
      ∧ (applyOp i s).blk.seq = startSeq s.params s.pre.tx (dProto d) (dPin d) := by
  have heff := bus_effect i s hs
  generalize applyOp i s = t at heff hbusy ⊢
  cases heff with
  | start d t hi _ _ hstart hpin hpins => exact ⟨d, hi, hstart, hpin, hpins, rfl⟩
  | _ => exact absurd (hidle.symm.trans hbusy) Bool.false_ne_true

theorem txSlot_idle {s : State} (h : s.blk.seq.busy = false) : txSlot s = (s.blk.seq, false) := by
  rw [txSlot, h]
  rfl

theorem afterSlots_seq (c : CycleIn) (s : State) : (s.afterSlots c).blk.seq = (txSlot s).1 := rfl

/-- R164, R165: a start latches the protocol and pin of the write and counts the first duration, one unit. -/
theorem startSeq_fields (p : Config.Params) (tx : TxCfg) (proto : Proto) (pin : BitVec 4) :
    (startSeq p tx proto pin).busy = true ∧ (startSeq p tx proto pin).proto = proto
      ∧ (startSeq p tx proto pin).pin = pin ∧ (startSeq p tx proto pin).idx = 0
      ∧ (startSeq p tx proto pin).rep = 0
      ∧ (startSeq p tx proto pin).cnt = cycleCount p (startSeq p tx proto pin).unit.toNat := by
  cases proto <;> exact ⟨rfl, rfl, rfl, rfl, rfl, rfl⟩

/-- Settles O14: RESET leaves the sequencer idle and there is no tick of an idle one, so the bus operation
made it busy. -/
theorem onlyAStartMakesBusy : Obligations.OnlyAStartMakesBusy := by
  intro s t c hidle hc hbusy
  cases hrst : c.rst
  · rw [cycle_of_running c s hrst] at hc
    cases hc
    have hidle' : (s.afterSlots c).blk.seq.busy = false := by rwa [afterSlots_seq, txSlot_idle hidle]
    obtain ⟨d, hi, hstart, hpin, hpins, hseq⟩ := bus_starts (decodeBus_wellFormed c).2 hidle' hbusy
    obtain ⟨hop, haddr, rfl⟩ := decodeBus_write c 0x50 d (by rw [hi]; rfl)
    obtain ⟨-, hproto, hpin', hidx, hrep, -⟩ := startSeq_fields s.params s.blk.tx (dProto c.d) (dPin c.d)
    have hlatched : (applyOp (decodeBus c) (s.afterSlots c)).blk.seq
        = startSeq s.params s.blk.tx (dProto c.d) (dPin c.d) := hseq
    rw [hlatched, hproto, hpin', hidx, hrep]
    refine ⟨rfl, hop, haddr, hstart, hpin, hpins, rfl, rfl, fun h => ?_, fun h => ?_⟩
    · rw [h]
      exact ⟨rfl, rfl⟩
    · rw [h]
      exact ⟨rfl, rfl, rfl⟩
  · rw [cycle_of_reset c s hrst] at hc
    cases hc
    exact absurd hbusy Bool.false_ne_true

/-! ### TX.TICK (R166, R167) -/

theorem Seq.of_coco {q : Seq} (h : q.proto = .coco) :
    q.durations = cocoSeq q.msg q.unit.toNat ∧ q.seqLen = 132 ∧ q.proto.repeats = 16 := by
  simp [Seq.durations, Seq.seqLen, Proto.repeats, h]

theorem Seq.of_kfs {q : Seq} (h : q.proto = .kfs) :
    q.durations = kfsSeq q.msg q.len.toNat q.unit.toNat ∧ q.seqLen = 2 + 2 * q.len.toNat
      ∧ q.proto.repeats = 7 := by
  simp [Seq.durations, Seq.seqLen, Proto.repeats, h]

theorem cycleCount_durationAt_eq {p : Config.Params} (hp : ParamsLegal p) (q : Seq) {i : Nat} (h : i < q.seqLen) :
    cycleCount p (q.durationAt i) = BitVec.ofNat 64 (q.durationAt i * p.cyclesPerUs) := by
  obtain ⟨m, -, hm, hd⟩ := durations_mem q _ (durationAt_mem q i h)
  exact cycleCount_of_le hp (hd ▸ Nat.mul_le_mul hm (Nat.le_of_lt_succ q.unit.isLt))

/-- A tick that does not complete writes the sequencer alone. -/
theorem exec_txTick_of_running {s : State} {q : Seq} (hbusy : s.pre.seq.busy = true)
    (h : seqTick s.params s.pre.seq s.blk.seq = (q, false)) :
    exec .txTick s = .next { s with blk := { s.blk with seq := q } } := by
  simp [exec_eq_applyOp, applyOp_txTick s hbusy, h]

/-- A tick that completes also sets TX_DONE and its wire (R167). -/
theorem exec_txTick_of_done {s : State} {q : Seq} (hbusy : s.pre.seq.busy = true)
    (h : seqTick s.params s.pre.seq s.blk.seq = (q, true)) :
    exec .txTick s = .next { s with
      set := { s.set with txDone := true }
      blk := { s.blk with seq := q, st := { s.blk.st with txDone := true } } } := by
  simp [exec_eq_applyOp, applyOp_txTick s hbusy, h]

theorem word_sub_one {x : Word} (h : 1 < x.toNat) : x - 1 = BitVec.ofNat 64 (x.toNat - 1) := by
  bv_omega

theorem bitVec_add_one {w : Nat} (x : BitVec w) : x + 1 = BitVec.ofNat w (x.toNat + 1) := by
  rw [BitVec.ofNat_add, BitVec.ofNat_toNat, BitVec.setWidth_eq]
  rfl

section
variable {p : Config.Params} {S : Seq} (S' : Seq)

theorem seqTick_countDown (hcnt : 1 < S.cnt.toNat) :
    seqTick p S S' = ({ S' with cnt := S.cnt - 1 }, false) := if_pos hcnt

theorem seqTick_nextDuration (hcnt : S.cnt.toNat ≤ 1) (hidx : S.idx.toNat + 1 < S.seqLen) :
    seqTick p S S'
      = ({ S' with idx := S.idx + 1, cnt := cycleCount p (S.durationAt (S.idx.toNat + 1)) }, false) :=
  (if_neg hcnt.not_gt).trans (if_pos hidx)

theorem seqTick_nextRepetition (hcnt : S.cnt.toNat ≤ 1) (hidx : S.seqLen ≤ S.idx.toNat + 1)
    (hrep : S.rep.toNat + 1 < S.proto.repeats) :
    seqTick p S S' = ({ S' with rep := S.rep + 1, idx := 0, cnt := cycleCount p (S.durationAt 0) }, false) :=
  (if_neg hcnt.not_gt).trans ((if_neg hidx.not_gt).trans (if_pos hrep))

theorem seqTick_complete (hcnt : S.cnt.toNat ≤ 1) (hidx : S.seqLen ≤ S.idx.toNat + 1)
    (hrep : S.proto.repeats ≤ S.rep.toNat + 1) :
    seqTick p S S' = ({ S' with busy := false, idx := 0, rep := 0, cnt := 0 }, true) :=
  (if_neg hcnt.not_gt).trans ((if_neg hidx.not_gt).trans (if_neg hrep.not_gt))

end

/-- Settles O33: the four branches of the tick, with the counts they load as exact products. -/
theorem tickSteps : Obligations.TickSteps := by
  intro s q L R hp hbusy hcoco hkfs
  obtain ⟨rfl, rfl, rfl⟩ : q = s.pre.seq.durations ∧ L = s.pre.seq.seqLen ∧ R = s.pre.seq.proto.repeats := by
    cases hproto : s.pre.seq.proto
    · obtain ⟨hq, hL, hR⟩ := Seq.of_coco hproto
      rw [hq, hL, ← hproto, hR]
      exact hcoco hproto
    · obtain ⟨hq, hL, hR⟩ := Seq.of_kfs hproto
      rw [hq, hL, ← hproto, hR]
      exact hkfs hproto
  refine ⟨fun hcnt => exec_txTick_of_running hbusy ?_, fun hcnt hidx => exec_txTick_of_running hbusy ?_,
    fun hcnt hidx hrep => exec_txTick_of_running hbusy ?_,
    fun hcnt hidx hrep => exec_txTick_of_done hbusy (seqTick_complete _ hcnt hidx hrep)⟩
  · rw [seqTick_countDown _ hcnt, word_sub_one hcnt]
  · rw [seqTick_nextDuration _ hcnt hidx, cycleCount_durationAt_eq hp _ hidx, bitVec_add_one]
    rfl
  · rw [seqTick_nextRepetition _ hcnt hidx hrep, durationAt_zero, cycleCount_unit hp, bitVec_add_one]

/-! ### The output lines (R163, R168) -/

/-- R168: one line, from the latched pin and the parity of the index. -/
theorem txOut_iff (b : Block) (p : Nat) :
    b.txOut p = true ↔ b.seq.busy = true ∧ b.seq.pin.toNat = p + 1 ∧ b.seq.idx.toNat % 2 = 0 := by
  simp only [Block.txOut, Seq.level, Bool.and_eq_true, beq_iff_eq]
  exact and_right_comm.trans and_assoc

/-- Settles O36: the pin picks the line, so two lines that are high have the same number. -/
theorem outputLines : Obligations.OutputLines := by
  refine fun b p r => ⟨txOut_iff b p, fun hp hr => ?_⟩
  obtain ⟨-, hpinP, -⟩ := (txOut_iff b p).1 hp
  obtain ⟨-, hpinR, -⟩ := (txOut_iff b r).1 hr
  exact Nat.succ.inj (hpinP.symm.trans hpinR)

end Sys2Proof.Machine
end

/-! ## How long a transmission lasts (44_encoder.md R164, R171) -/

section
namespace Sys2Proof.Machine

/-! ### The cycles a sequencer has left -/

/-- The cycles until a sequencer is idle: those left of the running duration, then the durations left of the
running repetition, then the repetitions left. -/
def Seq.cyclesLeft (p : Config.Params) (q : Seq) : Nat :=
  if q.busy then
    q.cnt.toNat + ((q.durations.drop (q.idx.toNat + 1)).sum
      + (q.proto.repeats - (q.rep.toNat + 1)) * q.durations.sum) * p.cyclesPerUs
  else 0

theorem Seq.cyclesLeft_of_busy (p : Config.Params) {q : Seq} (h : q.busy = true) :
    q.cyclesLeft p = q.cnt.toNat + ((q.durations.drop (q.idx.toNat + 1)).sum
      + (q.proto.repeats - (q.rep.toNat + 1)) * q.durations.sum) * p.cyclesPerUs := if_pos h

theorem Seq.cyclesLeft_of_idle (p : Config.Params) {q : Seq} (h : q.busy = false) : q.cyclesLeft p = 0 := by
  rw [Seq.cyclesLeft, h]
  rfl

/-- A sequencer is busy exactly while it has cycles left. -/
theorem Seq.Inv.busy_iff {p : Config.Params} {q : Seq} (h : q.Inv p) : q.busy = true ↔ 0 < q.cyclesLeft p := by
  cases hbusy : q.busy
  · simp [Seq.cyclesLeft_of_idle p hbusy]
  · obtain ⟨hcnt, -⟩ := h.2 hbusy
    rw [Seq.cyclesLeft_of_busy p hbusy]
    exact iff_of_true rfl (Nat.add_pos_left hcnt _)

theorem durations_sum_drop (q : Seq) {i : Nat} (h : i < q.seqLen) :
    (q.durations.drop i).sum = q.durationAt i + (q.durations.drop (i + 1)).sum := by
  rw [← durations_length] at h
  rw [List.drop_eq_getElem_cons h, List.sum_cons, Seq.durationAt, List.getD_eq_getElem _ _ h]

/-- At the first cycle of duration `i` (R164). -/
theorem Seq.cyclesLeft_of_fresh {p : Config.Params} {q : Seq} {i : Nat} (hbusy : q.busy = true)
    (hidx : q.idx.toNat = i) (hi : i < q.seqLen) (hcnt : q.cnt.toNat = q.durationAt i * p.cyclesPerUs) :
    q.cyclesLeft p = ((q.durations.drop i).sum
      + (q.proto.repeats - (q.rep.toNat + 1)) * q.durations.sum) * p.cyclesPerUs := by
  rw [Seq.cyclesLeft_of_busy p hbusy, hcnt, hidx, durations_sum_drop q hi]
  ring

/-- At the first cycle of a repetition (R162). -/
theorem Seq.cyclesLeft_of_repetition {p : Config.Params} {q : Seq} (hbusy : q.busy = true) (hidx : q.idx = 0)
    (hrep : q.rep.toNat < q.proto.repeats) (hcnt : q.cnt.toNat = q.durationAt 0 * p.cyclesPerUs) :
    q.cyclesLeft p = (q.proto.repeats - q.rep.toNat) * q.durations.sum * p.cyclesPerUs := by
  obtain ⟨r, hr⟩ := Nat.exists_eq_add_of_lt hrep
  have hthis : q.proto.repeats - q.rep.toNat = r + 1 := by omega
  have hnext : q.proto.repeats - (q.rep.toNat + 1) = r := by omega
  rw [Seq.cyclesLeft_of_fresh (i := 0) hbusy (congrArg BitVec.toNat hidx) (seqLen_pos q) hcnt, hthis, hnext,
    List.drop_zero]
  ring

/-- A tick of a busy sequencer uses up exactly one cycle, whatever it does (R164, R166). -/
theorem seqTick_cyclesLeft {p : Config.Params} {S : Seq} (hp : ParamsLegal p) (hi : S.Inv p)
    (hbusy : S.busy = true) : (seqTick p S S).1.cyclesLeft p + 1 = S.cyclesLeft p := by
  obtain ⟨hpos, -, -, hunit, hlen, -, -⟩ := hi.2 hbusy
  -- an index below 132 and a repetition below 16 do not wrap when they go up by one
  have hL := seqLen_le S (fun h => (hlen h).2)
  have hR := repeats_le S.proto
  rw [Seq.cyclesLeft_of_busy p hbusy]
  obtain ⟨hcnt, h⟩ | ⟨hcnt, hidx, h⟩ | ⟨hcnt, hidx, hrep, h⟩ | ⟨hcnt, hidx, hrep, h⟩ := seqTick_cases p S S
  · have hdown : (S.cnt - 1).toNat + 1 = S.cnt.toNat := by bv_omega
    rw [h, ← hdown, Seq.cyclesLeft_of_busy (q := { S with cnt := S.cnt - 1 }) p hbusy]
    exact Nat.add_right_comm _ _ _
  · have hnext : (S.idx + 1).toNat = S.idx.toNat + 1 := by bv_omega
    obtain ⟨hcount, -⟩ := cycleCount_durationAt p S _ hp hidx hunit
    generalize cycleCount p (S.durationAt (S.idx.toNat + 1)) = count at h hcount
    rw [h, le_antisymm hcnt hpos, Seq.cyclesLeft_of_fresh (q := { S with idx := S.idx + 1, cnt := count })
      hbusy hnext hidx hcount]
    exact Nat.add_comm _ _
  · have hnext : (S.rep + 1).toNat = S.rep.toNat + 1 := by bv_omega
    obtain ⟨hcount, -⟩ := cycleCount_durationAt p S 0 hp (seqLen_pos S) hunit
    generalize cycleCount p (S.durationAt 0) = count at h hcount
    rw [h, le_antisymm hcnt hpos, List.drop_eq_nil_of_le (by rwa [durations_length]), List.sum_nil, Nat.zero_add,
      Seq.cyclesLeft_of_repetition (q := { S with rep := S.rep + 1, idx := 0, cnt := count })
        hbusy rfl (hnext.trans_lt hrep) hcount, hnext]
    exact Nat.add_comm _ _
  · rw [h, Seq.cyclesLeft_of_idle p rfl, le_antisymm hcnt hpos, Nat.sub_eq_zero_of_le hrep,
      List.drop_eq_nil_of_le (by rwa [durations_length]), Nat.zero_mul, List.sum_nil, Nat.zero_add, Nat.zero_mul]

/-- What a start has to send: all repetitions of its sequence (R162). -/
theorem startSeq_cyclesLeft {p : Config.Params} (hp : ParamsLegal p) (tx : TxCfg) (proto : Proto) (pin : BitVec 4) :
    (startSeq p tx proto pin).cyclesLeft p
      = proto.repeats * (startSeq p tx proto pin).durations.sum * p.cyclesPerUs := by
  obtain ⟨hbusy, hproto, -, hidx, hrep, hcnt⟩ := startSeq_fields p tx proto pin
  have hcount : (startSeq p tx proto pin).cnt.toNat = (startSeq p tx proto pin).durationAt 0 * p.cyclesPerUs := by
    rw [hcnt, durationAt_zero, cycleCount_of_legal p _ hp (by omega)]
  rw [Seq.cyclesLeft_of_repetition hbusy hidx (by rw [hrep]; exact repeats_pos _) hcount, hproto, hrep]
  rfl

/-- R171, COCO. -/
theorem startSeq_cyclesLeft_coco {p : Config.Params} (hp : ParamsLegal p) (tx : TxCfg) (pin : BitVec 4) :
    (startSeq p tx .coco pin).cyclesLeft p = 16 * 276 * tx.cocoUnit.toNat * p.cyclesPerUs := by
  obtain ⟨hdurations, -, -⟩ := Seq.of_coco (q := startSeq p tx .coco pin) rfl
  rw [startSeq_cyclesLeft hp, hdurations, cocoSeq_sum, ← Nat.mul_assoc]
  rfl

/-- R171, KFS. -/
theorem startSeq_cyclesLeft_kfs {p : Config.Params} (hp : ParamsLegal p) (tx : TxCfg) (pin : BitVec 4) :
    (startSeq p tx .kfs pin).cyclesLeft p
      = 7 * (32 + 4 * tx.kfsLen.toNat) * tx.kfsUnit.toNat * p.cyclesPerUs := by
  obtain ⟨hdurations, -, -⟩ := Seq.of_kfs (q := startSeq p tx .kfs pin) rfl
  rw [startSeq_cyclesLeft hp, hdurations, kfsSeq_sum, ← Nat.mul_assoc]
  rfl

/-! ### The cycles of a transmission -/

/-- Between cycles: `n` cycles of a transmission are to come, and none of them is a reset. -/
structure State.Sending (n : Nat) (s : State) : Prop where
  /-- every count is an exact product (assumption log 7) -/
  params : ParamsLegal s.params
  /-- R57 -/
  inv : s.blk.seq.Inv s.params
  /-- the cycles to come -/
  left : s.blk.seq.cyclesLeft s.params = n
  /-- R = 0 in each of them (R170) -/
  noReset : ∀ e ∈ s.inputs.take n, e.rst = false

theorem nextInput_rst {s : State} {n : Nat} (h : ∀ e ∈ s.inputs.take (n + 1), e.rst = false) :
    s.nextInput.rst = false := by
  unfold State.nextInput
  cases hin : s.inputs with
  | nil => rfl
  | cons e es => exact h e (by rw [hin]; exact List.mem_cons_self)

theorem mem_take_of_mem_tail {α : Type} {l : List α} {n : Nat} {a : α} (h : a ∈ l.tail.take n) :
    a ∈ l.take (n + 1) := by
  rw [← Nat.add_sub_cancel n 1, ← List.tail_take_eq_take_tail] at h
  exact List.mem_of_mem_tail h

theorem State.Sending.busy_iff {n : Nat} {s : State} (h : s.Sending n) : s.blk.seq.busy = true ↔ 0 < n :=
  h.left ▸ h.inv.busy_iff

/-- One cycle of a transmission: it leaves one cycle less, and the last one sets TX_DONE. -/
theorem State.Sending.step {n : Nat} {s : State} (h : s.Sending (n + 1)) :
    ∃ t, step s = .next t ∧ t.Sending n ∧ (n = 0 → t.blk.st.txDone = true) := by
  obtain ⟨t, hstep, -, hinputs, hparams⟩ := everyCycleCompletes s
  have hbusy := h.busy_iff.2 n.succ_pos
  have hrst := nextInput_rst h.noReset
  have hseq := cycle_seq_of_busy hrst hbusy hstep
  have hleft := seqTick_cyclesLeft h.params h.inv hbusy
  have hsending : t.Sending n := {
    params := hparams ▸ h.params
    inv := by
      rw [hseq, hparams]
      exact seqTick_inv s.params s.blk.seq h.params h.inv hbusy
    left := by
      rw [h.left] at hleft
      rw [hseq, hparams]
      exact Nat.succ.inj hleft
    noReset := fun e he => h.noReset e (mem_take_of_mem_tail (hinputs ▸ he)) }
  refine ⟨t, hstep, hsending, fun hlast => cycle_txDone hrst hbusy hstep ?_⟩
  rw [← Bool.not_eq_true, hsending.busy_iff, hlast]
  exact Nat.lt_irrefl 0

/-- After `k` of its cycles, the others are to come. -/
theorem State.Sending.run {m k : Nat} {s : State} (h : s.Sending (m + k)) :
    ∃ t, core.run k s = .next t ∧ t.Sending m := by
  induction k generalizing s with
  | zero => exact ⟨s, rfl, h⟩
  | succ k ih =>
    obtain ⟨u, hstep, hu, -⟩ := h.step
    rw [run_succ k s u hstep]
    exact ih hu

/-- After all of its cycles the sequencer is idle and TX_DONE is 1 (R167). -/
theorem State.Sending.run_all {n : Nat} {s : State} (h : s.Sending (n + 1)) :
    ∃ t, core.run (n + 1) s = .next t ∧ t.blk.seq.busy = false ∧ t.blk.st.txDone = true := by
  induction n generalizing s with
  | zero =>
    obtain ⟨t, hstep, ht, hdone⟩ := h.step
    exact ⟨t, run_succ 0 s t hstep, Bool.eq_false_iff.2 (ht.busy_iff.not.2 (Nat.lt_irrefl 0)), hdone rfl⟩
  | succ n ih =>
    obtain ⟨u, hstep, hu, -⟩ := h.step
    rw [run_succ (n + 1) s u hstep]
    exact ih hu

/-! ### The cycle that starts it -/

theorem decodeBus_wrTxCtrl {c : CycleIn} (hop : c.op = 1) (haddr : c.addr = 0x50) :
    decodeBus c = .wrTxCtrl c.d := by
  simp [decodeBus, decodeWrite, hop, haddr]

/-- A cycle with R = 0 that starts an idle sequencer. -/
theorem cycle_seq_of_start {c : CycleIn} {s t : State} (hrst : c.rst = false) (hidle : s.blk.seq.busy = false)
    (hop : c.op = 1) (haddr : c.addr = 0x50) (hstart : dStart c.d = true) (hpin : 1 ≤ (dPin c.d).toNat)
    (hpins : (dPin c.d).toNat ≤ s.params.nTxPins) (hc : cycle c s = .next t) :
    t.blk.seq = startSeq s.params s.blk.tx (dProto c.d) (dPin c.d) := by
  rw [cycle_of_running c s hrst, decodeBus_wrTxCtrl hop haddr,
    applyOp_wrTxCtrl_start (s := s.afterSlots c) hstart hidle hpin hpins] at hc
  cases hc
  rfl

/-- Settles O35: the start leaves T cycles to send, and each cycle after it sends one of them. -/
theorem transmissionLastsExactly : Obligations.TransmissionLastsExactly := by
  intro s T hp htx hidle hrst hop haddr hstart hpin hpins hcoco hkfs hnoReset
  obtain ⟨t, hstep, -, hinputs, hparams⟩ := everyCycleCompletes s
  have hseq := cycle_seq_of_start hrst hidle hop haddr hstart hpin hpins hstep
  have hinv := startSeq_inv s.params s.blk.tx (dProto s.nextInput.d) _ hp htx hpin hpins
  have hleft : (startSeq s.params s.blk.tx (dProto s.nextInput.d) (dPin s.nextInput.d)).cyclesLeft s.params = T := by
    rw [dProto_eq_ite]
    cases hproto : s.nextInput.d.getLsbD 1
    · exact (startSeq_cyclesLeft_coco hp _ _).trans (hcoco hproto).symm
    · exact (startSeq_cyclesLeft_kfs hp _ _).trans (hkfs hproto).symm
  have hsending : t.Sending T := {
    params := hparams ▸ hp
    inv := by rwa [hseq, hparams]
    left := by rwa [hseq, hparams]
    noReset := by rwa [hinputs, ← List.drop_one] }
  have hT : 0 < T := by
    obtain ⟨hbusy, -⟩ := startSeq_fields s.params s.blk.tx (dProto s.nextInput.d) (dPin s.nextInput.d)
    exact hleft ▸ hinv.busy_iff.1 hbusy
  refine ⟨fun k hk hkT => ?_, ?_⟩
  · obtain ⟨j, rfl⟩ := Nat.exists_eq_add_of_le' hk
    obtain ⟨m, rfl⟩ := Nat.exists_eq_add_of_le' hkT
    have hrest : t.Sending (m + 1 + j) := by rwa [Nat.add_assoc, Nat.add_comm 1 j]
    obtain ⟨u, hrun, hu⟩ := hrest.run
    rw [run_succ j s t hstep]
    exact ⟨u, hrun, hu.busy_iff.2 m.succ_pos⟩
  · obtain ⟨n, rfl⟩ := Nat.exists_eq_add_of_le' hT
    rw [run_succ (n + 1) s t hstep]
    exact hsending.run_all

end Sys2Proof.Machine
end

/-! ## The host interface (45_host_interface.md) -/

section
namespace Sys2Proof.Machine

/-! ### Read data (R180, R181) -/

/-- R81: OP = 10 is a read. -/
theorem decodeBus_of_op_two {c : CycleIn} (h : c.op = 2) : decodeBus c = .rd c.addr := by
  rw [decodeBus, h]
  rfl

/-- R81: no other OP is a read, since a read encodes with OP = 10. -/
theorem decodeBus_ne_rd {c : CycleIn} (h : c.op ≠ 2) (a : Addr) : decodeBus c ≠ .rd a := by
  intro hrd
  have hencode := encode_decodeBus c
  rw [hrd] at hencode
  have hheader : busHeader 2 a = busHeader c.op c.addr :=
    congrArg CycleIn.h (Option.some.inj hencode)
  obtain ⟨-, -, -, hop, -⟩ := busHeader_fields c.op c.addr
  obtain ⟨-, -, -, htwo, -⟩ := busHeader_fields 2 a
  rw [← hheader] at hop
  exact h (hop.symm.trans htwo)

/-- A bus operation other than RD leaves the read data as it finds it. -/
theorem bus_busRdata (i : Instr) (s : State) (hs : i.slot = .bus) (hne : ∀ a, i ≠ .rd a) :
    (applyOp i s).busRdata = s.busRdata := by
  have heff := bus_effect i s hs
  generalize applyOp i s = t at heff ⊢
  cases heff with
  | read a hrd => exact absurd hrd (hne a)
  | _ => rfl

/-- Settles O8: RESET and every bus operation but RD leave the 0 that the cycle opened with, and RD reads
the pre-state, which no slot writes. -/
theorem readDataPort : Obligations.ReadDataPort := by
  intro s c
  cases hrst : c.rst
  case false =>
    refine ⟨_, cycle_of_running c s hrst, fun _ hop => ?_, fun hother => ?_⟩
    · rw [decodeBus_of_op_two hop, applyOp_rd]
      rfl
    · have hop : c.op ≠ 2 := hother.resolve_left Bool.false_ne_true
      exact bus_busRdata _ (s.afterSlots c) (decodeBus_wellFormed c).2 (decodeBus_ne_rd hop)
  case true =>
    refine ⟨_, cycle_of_reset c s hrst, fun h => absurd h.symm Bool.false_ne_true, fun _ => ?_⟩
    rw [applyOp_reset]

/-! ### The fields of the write data as numbers (R84) -/

theorem field_eq_ofNat_div (lo len : Nat) (d : Word) :
    field lo len d = BitVec.ofNat len (d.toNat / 2 ^ lo) := by
  apply BitVec.eq_of_toNat_eq
  rw [field_toNat, BitVec.toNat_ofNat]

theorem field_zero_eq_ofNat (len : Nat) (d : Word) : field 0 len d = BitVec.ofNat len d.toNat := by
  rw [field_eq_ofNat_div, Nat.pow_zero, Nat.div_one]

theorem field_zero_eq_ofNat_mod (len : Nat) (d : Word) :
    field 0 len d = BitVec.ofNat len (d.toNat % 2 ^ len) := by
  rw [field_eq_ofNat, Nat.pow_zero, Nat.div_one]

theorem dUnit_eq_ofNat (d : Word) : dUnit d = BitVec.ofNat 16 d.toNat := field_zero_eq_ofNat 16 d
theorem dPos_eq_ofNat (d : Word) : dPos d = BitVec.ofNat 8 (d.toNat % 2 ^ 8) := field_zero_eq_ofNat_mod 8 d
theorem dNeg_eq_ofNat (d : Word) : dNeg d = BitVec.ofNat 8 (d.toNat / 2 ^ 8 % 2 ^ 8) := field_eq_ofNat 8 8 d
theorem dRep_eq_ofNat (d : Word) : dRep d = BitVec.ofNat 8 d.toNat := field_zero_eq_ofNat 8 d
theorem dRef_eq_ofNat (d : Word) : dRef d = BitVec.ofNat 16 d.toNat := field_zero_eq_ofNat 16 d
theorem dCode_eq_ofNat (d : Word) : dCode d = BitVec.ofNat 32 d.toNat := field_zero_eq_ofNat 32 d
theorem dId_eq_ofNat (d : Word) : dId d = BitVec.ofNat 24 (d.toNat % 2 ^ 24) := field_zero_eq_ofNat_mod 24 d
theorem dLen_eq_ofNat (d : Word) : dLen d = BitVec.ofNat 5 (d.toNat / 2 ^ 32) := field_eq_ofNat_div 32 5 d

/-! ### Which write data is illegal (R84) -/

theorem okUnit_eq_false {d : Word} (h : d.toNat = 0 ∨ 2 ^ 16 ≤ d.toNat) : okUnit d = false := by
  rw [Bool.eq_false_iff, ne_eq, okUnit_iff]
  omega

theorem okTol_eq_false {d : Word} (h : 2 ^ 16 ≤ d.toNat ∨ d.toNat % 2 ^ 8 = 0 ∨ 100 < d.toNat % 2 ^ 8
      ∨ d.toNat / 2 ^ 8 % 2 ^ 8 = 0 ∨ 100 < d.toNat / 2 ^ 8 % 2 ^ 8) : okTol d = false := by
  rw [Bool.eq_false_iff, ne_eq, okTol_iff]
  omega

theorem okRep_eq_false {d : Word} (h : 2 ^ 8 ≤ d.toNat) : okRep d = false := by
  rw [Bool.eq_false_iff, ne_eq, okRep_iff]
  exact h.not_gt

theorem okRef_eq_false {d : Word} (h : 2 ^ 16 ≤ d.toNat) : okRef d = false := by
  rw [Bool.eq_false_iff, ne_eq, okRef_iff]
  exact h.not_gt

theorem okCode_eq_false {d : Word} (h : 2 ^ 32 ≤ d.toNat) : okCode d = false := by
  rw [Bool.eq_false_iff, ne_eq, okCode_iff]
  exact h.not_gt

theorem okKfsMsg_eq_false {d : Word}
    (h : d.toNat / 2 ^ 24 % 2 ^ 8 ≠ 0 ∨ d.toNat / 2 ^ 32 = 0 ∨ 24 < d.toNat / 2 ^ 32) :
    okKfsMsg d = false := by
  rw [Bool.eq_false_iff, ne_eq, okKfsMsg_iff]
  omega

/-! ### Checked writes (R184 to R195) -/

section
variable (d : Word) (s : State)

theorem exec_wrCocoNominal : exec (.wrCocoNominal d) s = .next (checkedWrite s (okUnit d) .nominalRange
    (s.setCocoCfg { s.blk.coco.cfg with nom := dUnit d })) := rfl
theorem exec_wrKfsNominal : exec (.wrKfsNominal d) s = .next (checkedWrite s (okUnit d) .nominalRange
    (s.setKfsCfg { s.blk.kfs.cfg with nom := dUnit d })) := rfl
theorem exec_wrCocoTol : exec (.wrCocoTol d) s = .next (checkedWrite s (okTol d) .tolRange
    (s.setCocoCfg { s.blk.coco.cfg with pos := dPos d, neg := dNeg d })) := rfl
theorem exec_wrKfsTol : exec (.wrKfsTol d) s = .next (checkedWrite s (okTol d) .tolRange
    (s.setKfsCfg { s.blk.kfs.cfg with pos := dPos d, neg := dNeg d })) := rfl
theorem exec_wrCocoRepeat : exec (.wrCocoRepeat d) s = .next (checkedWrite s (okRep d) .repeatRange
    (s.setCocoCfg { s.blk.coco.cfg with rep := dRep d })) := rfl
theorem exec_wrKfsRepeat : exec (.wrKfsRepeat d) s = .next (checkedWrite s (okRep d) .repeatRange
    (s.setKfsCfg { s.blk.kfs.cfg with rep := dRep d })) := rfl
theorem exec_wrCocoRefract : exec (.wrCocoRefract d) s = .next (checkedWrite s (okRef d) .refractRange
    (s.setCocoCfg { s.blk.coco.cfg with ref := dRef d })) := rfl
theorem exec_wrKfsRefract : exec (.wrKfsRefract d) s = .next (checkedWrite s (okRef d) .refractRange
    (s.setKfsCfg { s.blk.kfs.cfg with ref := dRef d })) := rfl
theorem exec_wrTxCocoUnit : exec (.wrTxCocoUnit d) s = .next (checkedWrite s (okUnit d) .txUnitRange
    (s.setTx { s.blk.tx with cocoUnit := dUnit d })) := rfl
theorem exec_wrTxKfsUnit : exec (.wrTxKfsUnit d) s = .next (checkedWrite s (okUnit d) .txUnitRange
    (s.setTx { s.blk.tx with kfsUnit := dUnit d })) := rfl
theorem exec_wrTxCocoMsg : exec (.wrTxCocoMsg d) s = .next (checkedWrite s (okCode d) .txMsgRange
    (s.setTx { s.blk.tx with cocoMsg := dCode d })) := rfl
theorem exec_wrTxKfsMsg : exec (.wrTxKfsMsg d) s = .next (checkedWrite s (okKfsMsg d) .txMsgRange
    (s.setTx { s.blk.tx with kfsId := dId d, kfsLen := dLen d })) := rfl

end

section
variable {i : Instr} {s commit : State} {ok : Bool} {cause : CfgCause}

/-- A checked write with legal data is its commit. -/
theorem exec_accepts (h : exec i s = .next (checkedWrite s ok cause commit)) (hok : ok = true) :
    exec i s = .next commit := by
  rw [h, checkedWrite_accepts s commit ok cause hok]

/-- A checked write with illegal data is its error event alone. -/
theorem exec_rejects (h : exec i s = .next (checkedWrite s ok cause commit)) (hok : ok = false) :
    exec i s = .next (s.cfgRejected cause.code) := by
  rw [h, checkedWrite_rejects s commit ok cause hok]

end

/-- Settles O25: the nominal is legal exactly in 1..65535, and is then the whole of D. -/
theorem nominalWrites : Obligations.NominalWrites := by
  intro d s
  rw [← dUnit_eq_ofNat]
  refine ⟨rfl, rfl, fun h => ?_, fun h => ?_⟩
  · have hok := (okUnit_iff d).2 h
    exact ⟨exec_accepts (exec_wrCocoNominal d s) hok, exec_accepts (exec_wrKfsNominal d s) hok⟩
  · have hbad := okUnit_eq_false h
    exact ⟨exec_rejects (exec_wrCocoNominal d s) hbad, exec_rejects (exec_wrKfsNominal d s) hbad⟩

/-- Settles O26: one check covers both tolerances, so a write commits both or neither. -/
theorem toleranceWrites : Obligations.ToleranceWrites := by
  rintro d s p n rfl rfl
  rw [← dPos_eq_ofNat, ← dNeg_eq_ofNat]
  refine ⟨rfl, rfl, fun h => ?_, fun h => ?_⟩
  · have hok := (okTol_iff d).2 h
    exact ⟨exec_accepts (exec_wrCocoTol d s) hok, exec_accepts (exec_wrKfsTol d s) hok⟩
  · have hbad := okTol_eq_false h
    exact ⟨exec_rejects (exec_wrCocoTol d s) hbad, exec_rejects (exec_wrKfsTol d s) hbad⟩

/-- Settles O27: 0 is legal, and the commit writes the configuration alone. -/
theorem repeatWrites : Obligations.RepeatWrites := by
  intro d s
  rw [← dRep_eq_ofNat]
  refine ⟨rfl, rfl, fun h => ?_, fun h => ?_⟩
  · have hok := (okRep_iff d).2 h
    exact ⟨exec_accepts (exec_wrCocoRepeat d s) hok, exec_accepts (exec_wrKfsRepeat d s) hok⟩
  · have hbad := okRep_eq_false h
    exact ⟨exec_rejects (exec_wrCocoRepeat d s) hbad, exec_rejects (exec_wrKfsRepeat d s) hbad⟩

/-- Settles O28: the refractory period is legal exactly below 65536, and is then the whole of D. -/
theorem refractoryWrites : Obligations.RefractoryWrites := by
  intro d s
  rw [← dRef_eq_ofNat]
  refine ⟨rfl, rfl, fun h => ?_, fun h => ?_⟩
  · have hok := (okRef_iff d).2 h
    exact ⟨exec_accepts (exec_wrCocoRefract d s) hok, exec_accepts (exec_wrKfsRefract d s) hok⟩
  · have hbad := okRef_eq_false h
    exact ⟨exec_rejects (exec_wrCocoRefract d s) hbad, exec_rejects (exec_wrKfsRefract d s) hbad⟩

/-- Settles O29: the check is that of a nominal, and the commit writes `tx` alone. -/
theorem transmitUnitWrites : Obligations.TransmitUnitWrites := by
  intro d s
  rw [← dUnit_eq_ofNat]
  refine ⟨rfl, rfl, fun h => ?_, fun h => ?_⟩
  · have hok := (okUnit_iff d).2 h
    exact ⟨exec_accepts (exec_wrTxCocoUnit d s) hok, exec_accepts (exec_wrTxKfsUnit d s) hok⟩
  · have hbad := okUnit_eq_false h
    exact ⟨exec_rejects (exec_wrTxCocoUnit d s) hbad, exec_rejects (exec_wrTxKfsUnit d s) hbad⟩

/-- Settles O30: each message has its own check, and that of the KFS message is on the whole of D[63:24]. -/
theorem transmitMessageWrites : Obligations.TransmitMessageWrites := by
  rintro d s id res len rfl rfl rfl
  rw [← dCode_eq_ofNat, ← dId_eq_ofNat, ← dLen_eq_ofNat]
  exact ⟨rfl, rfl,
    fun h => exec_accepts (exec_wrTxCocoMsg d s) ((okCode_iff d).2 h),
    fun h => exec_rejects (exec_wrTxCocoMsg d s) (okCode_eq_false h),
    fun h => exec_accepts (exec_wrTxKfsMsg d s) ((okKfsMsg_iff d).2 h),
    fun h => exec_rejects (exec_wrTxKfsMsg d s) (okKfsMsg_eq_false h)⟩

/-! ### WR STATUS (R182) -/

/-- Settles O23: the write is `clearSticky` of the mask D[4:0], which merges each sticky bit anew. -/
theorem statusWriteClears : Obligations.StatusWriteClears := by
  intro d s
  have hst : (s.clearSticky (dClear d)).blk.st = Sticky.merge s.pre.st (dClear d) s.set :=
    s.clearSticky_blk_st (dClear d)
  exact ⟨rfl, s.clearSticky (dClear d), rfl, congrArg Sticky.cocoMsg hst, congrArg Sticky.kfsMsg hst,
    congrArg Sticky.cfgErr hst, congrArg Sticky.txErr hst, congrArg Sticky.txDone hst, rfl⟩

end Sys2Proof.Machine
end

/-! ## Error events (60_exceptions.md R210 to R218) -/

section
namespace Sys2Proof.Machine

/-- What a bus operation can do to the two error wires and ERR_CAUSE (R210, R212, R217): at most one event,
each with the write and the causes of its class. -/
inductive ErrorEffect (s : State) (i : Instr) (t : State) : Prop where
  /-- No error event: the wires and ERR_CAUSE are left alone. -/
  | quiet (hcfg : t.set.cfgErr = s.set.cfgErr) (htx : t.set.txErr = s.set.txErr)
      (hcause : t.blk.errCause = s.blk.errCause) : ErrorEffect s i t
  /-- CfgError: a write to a writable register, with one of the causes 1 to 6 (R211). -/
  | cfgError (a : Addr) (d : Word) (hi : encode i = some (.write a d)) (ha : a ∈ writableAddrs)
      (hcfg : t.set.cfgErr = true) (htx : t.set.txErr = s.set.txErr)
      (hcause : 1 ≤ t.blk.errCause.toNat ∧ t.blk.errCause.toNat ≤ 6) : ErrorEffect s i t
  /-- TxError: a write to TX_CTRL, with the cause no-pin or busy (R211). -/
  | txError (d : Word) (hi : encode i = some (.write 0x50 d)) (hcfg : t.set.cfgErr = s.set.cfgErr)
      (htx : t.set.txErr = true) (hcause : t.blk.errCause = 0x07 ∨ t.blk.errCause = 0x08) : ErrorEffect s i t

/-- R216: among the effects of a bus operation, a rejected write and a refused start alone raise an error. -/
theorem bus_errorEffect (i : Instr) (s : State) (hs : i.slot = .bus) : ErrorEffect s i (applyOp i s) := by
  have heff := bus_effect i s hs
  generalize applyOp i s = t at heff ⊢
  cases heff with
  | rejected a d code hi ha h1 h6 => exact .cfgError a d hi ha rfl rfl ⟨h1, h6⟩
  | refused d t code hi ht hcode => exact .txError d (by rw [hi]; rfl) rfl rfl hcode
  | _ => exact .quiet rfl rfl rfl

/-- R66: the edge and tx slots raise no error, so the bus slot finds both wires 0 and ERR_CAUSE as it was. -/
theorem afterSlots_noError (c : CycleIn) (s : State) :
    (s.afterSlots c).set.cfgErr = false ∧ (s.afterSlots c).set.txErr = false
      ∧ (s.afterSlots c).blk.errCause = s.blk.errCause := ⟨rfl, rfl, rfl⟩

/-- R210: with R = 0 the error events of a cycle are those of its bus operation. -/
theorem cycle_errorEffect {c : CycleIn} {s t : State} (hrst : c.rst = false) (hc : cycle c s = .next t) :
    ErrorEffect (s.afterSlots c) (decodeBus c) t := by
  rw [cycle_of_running c s hrst] at hc
  cases hc
  exact bus_errorEffect _ _ (decodeBus_wellFormed c).2

/-- Settles O15: the wires start the bus slot at 0, so a driven one names its event, whose write the cycle's
header encodes. -/
theorem errorsComeFromWritesAlone : Obligations.ErrorsComeFromWritesAlone := by
  intro s t c hrst hc
  obtain ⟨hcfg0, htx0, hcause0⟩ := afterSlots_noError c s
  cases cycle_errorEffect hrst hc with
  | quiet hcfg htx hcause =>
    rw [hcfg, hcfg0, htx, htx0]
    exact ⟨fun h => absurd h (by decide), fun h => absurd h Bool.false_ne_true,
      fun h => absurd h Bool.false_ne_true, fun _ _ => hcause.trans hcause0⟩
  | cfgError a d hi ha hcfg htx hcause =>
    obtain ⟨hop, rfl, -⟩ := decodeBus_write c a d hi
    rw [hcfg, htx, htx0]
    exact ⟨fun _ => ⟨hop, ha⟩, fun _ => hcause, fun h => absurd h Bool.false_ne_true,
      fun h => absurd h.symm Bool.false_ne_true⟩
  | txError d hi hcfg htx hcause =>
    obtain ⟨hop, haddr, -⟩ := decodeBus_write c 0x50 d hi
    have hwritable : (0x50 : Addr) ∈ writableAddrs := by decide
    rw [hcfg, hcfg0, htx]
    exact ⟨fun _ => ⟨hop, haddr ▸ hwritable⟩, fun h => absurd h Bool.false_ne_true,
      fun _ => ⟨haddr, hcause⟩, fun _ h => absurd h.symm Bool.false_ne_true⟩

end Sys2Proof.Machine
end

/-! ## A decoder without an edge (70_reset_and_hazards.md R244) -/

section
namespace Sys2Proof.Machine

/-- R66: without an edge the COCO slot only drops the strobe. -/
theorem cocoSlot_of_no_edge {c : CycleIn} (s : State) (h : c.cocoValid = false) :
    cocoSlot c s = ({ s.blk.coco with strobe := false }, false) := by
  rw [cocoSlot, h, if_neg Bool.false_ne_true]

/-- R66: without an edge the KFS slot only drops the strobe. -/
theorem kfsSlot_of_no_edge {c : CycleIn} (s : State) (h : c.kfsValid = false) :
    kfsSlot c s = ({ s.blk.kfs with strobe := false }, false) := by
  rw [kfsSlot, h, if_neg Bool.false_ne_true]

/-- Settles O16: the slot of a port without an edge only drops the strobe, and the bus operation after it
writes only the configuration. -/
theorem writesKeepDecoderState : Obligations.WritesKeepDecoderState := by
  intro s t c hrst hc
  rw [cycle_of_running c s hrst] at hc
  cases hc
  have hbus := (decodeBus_wellFormed c).2
  obtain ⟨f, hf⟩ := bus_coco (decodeBus c) hbus
  obtain ⟨g, hg⟩ := bus_kfs (decodeBus c) hbus
  refine ⟨fun hcoco => ?_, fun hkfs => ?_⟩
  · rw [hf, afterSlots_coco, cocoSlot_of_no_edge s hcoco]
  · rw [hg, afterSlots_kfs, kfsSlot_of_no_edge s hkfs]

end Sys2Proof.Machine
end
